-- ==== Sys2Proof/Word.lean ====
section
/-! DEFINITION. Word.lean: the words of the block and its small data types: bytes, control words, the fields of a ROM
address, the names of signals and operations, the tables as plain data, and the trace items. -/

namespace Sys2Proof

/-- A byte of the image (00_scope.md §7). -/
abbrev Byte := BitVec 8

/-- A ControlWord: sixteen one-bit signals (R10, R56). -/
abbrev CWord := BitVec 16

/-- An opcode 0..15 (R12). -/
abbrev Opcode := Fin 16

/-- A step 0..7 (R11). -/
abbrev StepNo := Fin 8

/-- The byte-select of a ROM address: the high byte (0) or the low byte (1) of a control word (R50). -/
inductive ByteSelect where
  | high
  | low
  deriving DecidableEq, Repr

/-- A FlagState: two independent components, Zero and Carry (R13). -/
structure FlagState where
  zero : Bool
  carry : Bool
  deriving DecidableEq, Repr

/-- The sixteen control signals, the closed list of R70, most significant first (R74 to R89). -/
inductive Signal where
  | hlt | mi | ri | ro | io | ii | ai | ao | eo | su | bi | oi | ce | co | j | fi
  deriving DecidableEq, Repr

/-- The five kinds of signal the source sorts them into (R90). -/
inductive SignalKind where
  | registerIn | registerOut | aluMode | programCounterControl | flagLatch | halt
  deriving DecidableEq, Repr

/-- The ten defined operations, in the source's order (R61, R95). -/
inductive Operation where
  | loadAccumulator | add | subtract | storeAccumulator | loadImmediate | jump
  | jumpOnCarry | jumpOnZero | output | halt
  deriving DecidableEq, Repr

/-- A control-signal registry: a total map from the signals to bit positions 0..15 (R70). -/
abbrev Registry := Signal → Fin 16

/-- The four fields of a ROM address (R50): flag state, byte-select, opcode, step. -/
structure RomFields where
  f : FlagState
  b : ByteSelect
  o : Opcode
  s : StepNo
  deriving DecidableEq, Repr

/-- A Microprogram: exactly 8 control words, steps 0..7 (R11). -/
structure Microprogram where
  s0 : CWord
  s1 : CWord
  s2 : CWord
  s3 : CWord
  s4 : CWord
  s5 : CWord
  s6 : CWord
  s7 : CWord
  deriving DecidableEq, Repr

/-- The word of a microprogram at a step (R11). -/
def Microprogram.word (m : Microprogram) (s : StepNo) : CWord :=
  match s with
  | 0 => m.s0
  | 1 => m.s1
  | 2 => m.s2
  | 3 => m.s3
  | 4 => m.s4
  | 5 => m.s5
  | 6 => m.s6
  | 7 => m.s7

/-- The microprogram whose word at each step is the given one. -/
def Microprogram.tabulate (w : StepNo → CWord) : Microprogram :=
  ⟨w 0, w 1, w 2, w 3, w 4, w 5, w 6, w 7⟩

/-- An OpcodeTable: sixteen microprograms, always all present, each under its own opcode (R12, R185). -/
structure OpcodeTable where
  o0 : Microprogram
  o1 : Microprogram
  o2 : Microprogram
  o3 : Microprogram
  o4 : Microprogram
  o5 : Microprogram
  o6 : Microprogram
  o7 : Microprogram
  o8 : Microprogram
  o9 : Microprogram
  o10 : Microprogram
  o11 : Microprogram
  o12 : Microprogram
  o13 : Microprogram
  o14 : Microprogram
  o15 : Microprogram
  deriving DecidableEq, Repr

/-- The microprogram of an opcode: total, indexed by the opcode (R12, R185). The last arm is opcode 15, the only one left. -/
def OpcodeTable.row (t : OpcodeTable) (o : Opcode) : Microprogram :=
  match o.val with
  | 0 => t.o0
  | 1 => t.o1
  | 2 => t.o2
  | 3 => t.o3
  | 4 => t.o4
  | 5 => t.o5
  | 6 => t.o6
  | 7 => t.o7
  | 8 => t.o8
  | 9 => t.o9
  | 10 => t.o10
  | 11 => t.o11
  | 12 => t.o12
  | 13 => t.o13
  | 14 => t.o14
  | _ => t.o15

/-- The table whose row at each opcode is the given one. -/
def OpcodeTable.tabulate (m : Opcode → Microprogram) : OpcodeTable :=
  ⟨m 0, m 1, m 2, m 3, m 4, m 5, m 6, m 7, m 8, m 9, m 10, m 11, m 12, m 13, m 14, m 15⟩

/-- One entry `BASE[o][s]` of an opcode table (00_scope.md §7). -/
def OpcodeTable.entry (t : OpcodeTable) (o : Opcode) (s : StepNo) : CWord := (t.row o).word s

/-- A VariantTable: four opcode tables, each its own data, one per flag state (R14, R122). -/
structure VariantTable where
  z0c0 : OpcodeTable
  z0c1 : OpcodeTable
  z1c0 : OpcodeTable
  z1c1 : OpcodeTable
  deriving DecidableEq, Repr

/-- The opcode table of a flag state (R14). -/
def VariantTable.variant (v : VariantTable) (f : FlagState) : OpcodeTable :=
  match f with
  | ⟨false, false⟩ => v.z0c0
  | ⟨false, true⟩ => v.z0c1
  | ⟨true, false⟩ => v.z1c0
  | ⟨true, true⟩ => v.z1c1

/-- The variant table whose opcode table at each flag state is the given one. -/
def VariantTable.tabulate (t : FlagState → OpcodeTable) : VariantTable :=
  ⟨t ⟨false, false⟩, t ⟨false, true⟩, t ⟨true, false⟩, t ⟨true, true⟩⟩

/-- One entry `VT[f][o][s]` (R14). -/
def VariantTable.entry (v : VariantTable) (f : FlagState) (o : Opcode) (s : StepNo) : CWord :=
  (v.variant f).entry o s

/-- A trace record `(a, f, b, o, s, w)`: what one line of the trace holds, in this order (R148, D8). -/
structure TraceRecord where
  address : Nat
  f : FlagState
  b : ByteSelect
  o : Opcode
  s : StepNo
  w : CWord
  deriving DecidableEq, Repr

/-- An item of the trace: a record, or the blank marker after a step-5 record (R17, R148). -/
inductive TraceItem where
  | record (r : TraceRecord)
  | blank
  deriving DecidableEq, Repr

end Sys2Proof
end

