-- ==== Sys2Proof/Config.lean ====
section
/-! DEFINITION. Config.lean: the constants the source fixes (R5), the parameters it leaves open (R7), and the free values
of the model, each an opaque constant with no body. -/

namespace Sys2Proof.Config

/-- OPC_JC, the carry-conditional-jump opcode 0111 (R5). -/
abbrev opcJc : Opcode := 7

/-- OPC_JZ, the zero-conditional-jump opcode 1000 (R5). -/
abbrev opcJz : Opcode := 8

/-- PATCH_STEP, the step the expander patches (R5). -/
abbrev patchStep : StepNo := 2

/-- TRACE_STEPS: steps below this are traced (R5). -/
abbrev traceSteps : Nat := 6

/-- DECODE_SIZE: the decode domain is the addresses below this (R5). -/
abbrev decodeSize : Nat := 1024

/-- IMAGE_SIZE: the image has this many bytes (R5). -/
abbrev imageSize : Nat := 2048

/-- FREE VALUE (log 4, U9, D16): the address the environment presents at the ROM port at its n-th presentation. -/
opaque presentedAddress : Nat → BitVec 11

/-- FREE VALUE (log 6, U12): whether the host stores these bytes whole under this name at the n-th draw. -/
opaque hostStoresFile : String → List Byte → Nat → Bool

/-- FREE VALUE (log 7, U7): what the output file is after a failed write at the n-th draw: absent, empty, a prefix or
anything else. -/
opaque fileAfterFailure : Nat → Option (List Byte)

/-- TRACE_FMT, the text of a trace line (R7, U6, D8): an open parameter (log 16). -/
opaque traceFmt : TraceRecord → String

/-- OUT_PATH, the name of the output file (R7, U11, D9): an open parameter (log 18). -/
opaque outPath : String

end Sys2Proof.Config
end

