-- ==== Sys2Proof/Syntax.lean ====
section
/-! DEFINITION. Syntax.lean: the instructions, one constructor for each row of spec/opcode_table.json. An instruction of
this block is one read of the control ROM, and its encoding is its address (R50, R61; 95_test_vectors.md §4; log 1). The
operands are the address fields the row leaves free. -/

namespace Sys2Proof

/-- The eighteen rows of the opcode table. `f` is the flag state, `b` the byte-select, `k` the step; a row of JC has only
the Zero flag free, a row of JZ only the Carry flag (the two rows of each are split on the flag it reads: R107, R108). -/
inductive Instr where
  /-- NOP, row `ffb0000sss` (R100). -/
  | nop (f : FlagState) (b : ByteSelect) (k : StepNo)
  /-- LDA, row `ffb0001sss` (R101). -/
  | lda (f : FlagState) (b : ByteSelect) (k : StepNo)
  /-- ADD, row `ffb0010sss` (R102). -/
  | add (f : FlagState) (b : ByteSelect) (k : StepNo)
  /-- SUB, row `ffb0011sss` (R103). -/
  | sub (f : FlagState) (b : ByteSelect) (k : StepNo)
  /-- STA, row `ffb0100sss` (R104). -/
  | sta (f : FlagState) (b : ByteSelect) (k : StepNo)
  /-- LDI, row `ffb0101sss` (R105). -/
  | ldi (f : FlagState) (b : ByteSelect) (k : StepNo)
  /-- JMP, row `ffb0110sss` (R106). -/
  | jmp (f : FlagState) (b : ByteSelect) (k : StepNo)
  /-- JC with Carry = 0, row `f0b0111sss`: not taken (R107, R128). -/
  | jcNotTaken (zero : Bool) (b : ByteSelect) (k : StepNo)
  /-- JC with Carry = 1, row `f1b0111sss`: taken (R107, R128). -/
  | jcTaken (zero : Bool) (b : ByteSelect) (k : StepNo)
  /-- JZ with Zero = 0, row `0fb1000sss`: not taken (R108, R129). -/
  | jzNotTaken (carry : Bool) (b : ByteSelect) (k : StepNo)
  /-- JZ with Zero = 1, row `1fb1000sss`: taken (R108, R129). -/
  | jzTaken (carry : Bool) (b : ByteSelect) (k : StepNo)
  /-- UND9, row `ffb1001sss` (R109). -/
  | und9 (f : FlagState) (b : ByteSelect) (k : StepNo)
  /-- UND10, row `ffb1010sss` (R110). -/
  | und10 (f : FlagState) (b : ByteSelect) (k : StepNo)
  /-- UND11, row `ffb1011sss` (R111). -/
  | und11 (f : FlagState) (b : ByteSelect) (k : StepNo)
  /-- UND12, row `ffb1100sss` (R112). -/
  | und12 (f : FlagState) (b : ByteSelect) (k : StepNo)
  /-- UND13, row `ffb1101sss` (R113). -/
  | und13 (f : FlagState) (b : ByteSelect) (k : StepNo)
  /-- OUT, row `ffb1110sss` (R114). -/
  | out (f : FlagState) (b : ByteSelect) (k : StepNo)
  /-- HLT, row `ffb1111sss` (R115). -/
  | hlt (f : FlagState) (b : ByteSelect) (k : StepNo)
  deriving DecidableEq, Repr

end Sys2Proof
end

