-- ==== Sys2Proof/WellFormed.lean ====
section
/-! DEFINITION. WellFormed.lean: the checks the spec puts on an address and on a registry: the ranges of the address fields
as plain numbers (R53), and the registry's rules (R6, R72, R182). The constraints on a base table are in
Machine/Admissible.lean. An `Instr` needs no check of its own: its operands are typed by their ranges, so every term of it
is well formed. -/

namespace Sys2Proof

/-- The ranges in which `encode(f, b, o, s)` is defined (R53). -/
def fieldsInRange (f b o s : Nat) : Bool :=
  decide (f < 4) && decide (b < 2) && decide (o < 16) && decide (s < 8)

/-- The sixteen signals, most significant first (R70). -/
def allSignals : List Signal :=
  [.hlt, .mi, .ri, .ro, .io, .ii, .ai, .ao, .eo, .su, .bi, .oi, .ce, .co, .j, .fi]

/-- The ten defined operations in the source's order (R61). -/
def allOperations : List Operation :=
  [.loadAccumulator, .add, .subtract, .storeAccumulator, .loadImmediate, .jump,
   .jumpOnCarry, .jumpOnZero, .output, .halt]

/-- "no two signals ever claim the same bit position" (R72). -/
def Registry.injective (sig : Registry) : Bool :=
  allSignals.all fun m => allSignals.all fun n => decide (m = n) || decide (sig m ≠ sig n)

/-- Halt is at bit 15, the most significant (R6, R74). -/
def Registry.haltOnTop (sig : Registry) : Bool := decide (sig .hlt = 15)

/-- Flag latch is at bit 0, the least significant (R6, R89). -/
def Registry.flagLatchAtBottom (sig : Registry) : Bool := decide (sig .fi = 0)

/-- A registry of this block (R6, R72, R182 item 1). -/
def Registry.wellFormed (sig : Registry) : Bool :=
  sig.injective && sig.haltOnTop && sig.flagLatchAtBottom

end Sys2Proof
end

