-- ==== Sys2Proof/Decode.lean ====
section
/-! DEFINITION. Decode.lean: the AddressDecoder (R50 to R55): a ROM address taken apart into its fields and put together
again, the instruction each address is (R61), and the encoder. -/

namespace Sys2Proof

/-- `f` as a number: Zero is bit 1 and Carry bit 0 (R13; D5, log 14). -/
def FlagState.number (f : FlagState) : Nat := 2 * f.zero.toNat + f.carry.toNat

/-- The flag state of a number 0..3: Zero is `f[1]`, Carry is `f[0]` (R13). -/
def FlagState.ofNumber (n : Nat) : FlagState := ⟨n.testBit 1, n.testBit 0⟩

/-- `b` as a number: 0 = high byte, 1 = low byte (R50). -/
def ByteSelect.number : ByteSelect → Nat
  | .high => 0
  | .low => 1

/-- The byte-select of an address bit (R50). -/
def ByteSelect.ofNumber (n : Nat) : ByteSelect := if n = 0 then .high else .low

/-- Why the decoder gives no value. -/
inductive DecodeReject where
  /-- The address is at or above 1024: "out of the defined decode domain" (R52, U5). -/
  | outsideDecodeDomain (address : Nat)
  deriving DecidableEq, Repr

/-- The four fields of a 10-bit address, by the shifts and masks of R51. -/
def decodeFields (a : Nat) : RomFields where
  f := FlagState.ofNumber ((a >>> 8) &&& 0b11)
  b := ByteSelect.ofNumber ((a >>> 7) &&& 0b1)
  o := ⟨(a >>> 3) &&& 0b1111, Nat.lt_of_le_of_lt Nat.and_le_right (by decide)⟩
  s := ⟨a &&& 0b111, Nat.lt_of_le_of_lt Nat.and_le_right (by decide)⟩

/-- `decode(a)`: total and pure on the decode domain, no value outside it (R51, R52). -/
def decodeAddress (a : Nat) : Except DecodeReject RomFields :=
  if a < Config.decodeSize then .ok (decodeFields a) else .error (.outsideDecodeDomain a)

/-- `encode(f, b, o, s)` over the field numbers (R53). -/
def encodeNumbers (f b o s : Nat) : Nat := (f <<< 8) ||| (b <<< 7) ||| (o <<< 3) ||| s

/-- `encode` of the four fields (R53). -/
def encodeFields (x : RomFields) : Nat := encodeNumbers x.f.number x.b.number x.o.val x.s.val

/-- The instruction an address with these fields is, by the opcode map (R61) and the flag bit that splits the rows of JC
and JZ (R107, R108). The last arm is opcode 15, the only one left. -/
def instrOfFields (x : RomFields) : Instr :=
  match x.o.val with
  | 0 => .nop x.f x.b x.s
  | 1 => .lda x.f x.b x.s
  | 2 => .add x.f x.b x.s
  | 3 => .sub x.f x.b x.s
  | 4 => .sta x.f x.b x.s
  | 5 => .ldi x.f x.b x.s
  | 6 => .jmp x.f x.b x.s
  | 7 => if x.f.carry then .jcTaken x.f.zero x.b x.s else .jcNotTaken x.f.zero x.b x.s
  | 8 => if x.f.zero then .jzTaken x.f.carry x.b x.s else .jzNotTaken x.f.carry x.b x.s
  | 9 => .und9 x.f x.b x.s
  | 10 => .und10 x.f x.b x.s
  | 11 => .und11 x.f x.b x.s
  | 12 => .und12 x.f x.b x.s
  | 13 => .und13 x.f x.b x.s
  | 14 => .out x.f x.b x.s
  | _ => .hlt x.f x.b x.s

/-- The address fields of an instruction: its row's fixed bits and its operands (R61, opcode_table.json). -/
def fieldsOfInstr : Instr → RomFields
  | .nop f b k => ⟨f, b, 0, k⟩
  | .lda f b k => ⟨f, b, 1, k⟩
  | .add f b k => ⟨f, b, 2, k⟩
  | .sub f b k => ⟨f, b, 3, k⟩
  | .sta f b k => ⟨f, b, 4, k⟩
  | .ldi f b k => ⟨f, b, 5, k⟩
  | .jmp f b k => ⟨f, b, 6, k⟩
  | .jcNotTaken zero b k => ⟨⟨zero, false⟩, b, 7, k⟩
  | .jcTaken zero b k => ⟨⟨zero, true⟩, b, 7, k⟩
  | .jzNotTaken carry b k => ⟨⟨false, carry⟩, b, 8, k⟩
  | .jzTaken carry b k => ⟨⟨true, carry⟩, b, 8, k⟩
  | .und9 f b k => ⟨f, b, 9, k⟩
  | .und10 f b k => ⟨f, b, 10, k⟩
  | .und11 f b k => ⟨f, b, 11, k⟩
  | .und12 f b k => ⟨f, b, 12, k⟩
  | .und13 f b k => ⟨f, b, 13, k⟩
  | .out f b k => ⟨f, b, 14, k⟩
  | .hlt f b k => ⟨f, b, 15, k⟩

/-- The decoder: the instruction at a ROM address, or the reason there is none (R51, R52, R61). -/
def decode (a : Nat) : Except DecodeReject Instr := (decodeAddress a).map instrOfFields

/-- The encoder: the ROM address of an instruction, written from the same layout (R53, R61). -/
def encode (i : Instr) : Nat := encodeFields (fieldsOfInstr i)

/-- The address an instruction word of `nbits` bits is: an instruction is one address, its bits numbered as the table
numbers them, and every bit above the given ones is 0 (R50, R55; log 1). -/
def tableWordAddress (nbits w : Nat) : Nat := w % 2 ^ nbits

/-- The instruction the decoder reads from a table word. -/
def decodeTableWord (nbits w : Nat) : Option Instr := (decode (tableWordAddress nbits w)).toOption

/-- What a row of the opcode table fixes: the address bits under its mask (30_encoding.md §6, opcode_table.json). -/
structure OpcodeRow where
  pattern : Nat
  mask : Nat
  deriving DecidableEq, Repr

/-- An address matches a row: "A decoder written from `opcode_table.json` matches the address against `match` under
`mask`" (30_encoding.md §6). -/
def OpcodeRow.covers (r : OpcodeRow) (a : Nat) : Bool := decide (a &&& r.mask = r.pattern)

/-- The table's row of each instruction, as opcode_table.json writes its match and mask. -/
def rowOfInstr : Instr → OpcodeRow
  | .nop _ _ _ => ⟨0x000, 0x078⟩
  | .lda _ _ _ => ⟨0x008, 0x078⟩
  | .add _ _ _ => ⟨0x010, 0x078⟩
  | .sub _ _ _ => ⟨0x018, 0x078⟩
  | .sta _ _ _ => ⟨0x020, 0x078⟩
  | .ldi _ _ _ => ⟨0x028, 0x078⟩
  | .jmp _ _ _ => ⟨0x030, 0x078⟩
  | .jcNotTaken _ _ _ => ⟨0x038, 0x178⟩
  | .jcTaken _ _ _ => ⟨0x138, 0x178⟩
  | .jzNotTaken _ _ _ => ⟨0x040, 0x278⟩
  | .jzTaken _ _ _ => ⟨0x240, 0x278⟩
  | .und9 _ _ _ => ⟨0x048, 0x078⟩
  | .und10 _ _ _ => ⟨0x050, 0x078⟩
  | .und11 _ _ _ => ⟨0x058, 0x078⟩
  | .und12 _ _ _ => ⟨0x060, 0x078⟩
  | .und13 _ _ _ => ⟨0x068, 0x078⟩
  | .out _ _ _ => ⟨0x070, 0x078⟩
  | .hlt _ _ _ => ⟨0x078, 0x078⟩

/-- The eighteen rows of the opcode table, in its order. -/
def opcodeRows : List OpcodeRow :=
  [⟨0x000, 0x078⟩, ⟨0x008, 0x078⟩, ⟨0x010, 0x078⟩, ⟨0x018, 0x078⟩, ⟨0x020, 0x078⟩, ⟨0x028, 0x078⟩,
   ⟨0x030, 0x078⟩, ⟨0x038, 0x178⟩, ⟨0x138, 0x178⟩, ⟨0x040, 0x278⟩, ⟨0x240, 0x278⟩, ⟨0x048, 0x078⟩,
   ⟨0x050, 0x078⟩, ⟨0x058, 0x078⟩, ⟨0x060, 0x078⟩, ⟨0x068, 0x078⟩, ⟨0x070, 0x078⟩, ⟨0x078, 0x078⟩]

end Sys2Proof
end

