-- ==== Sys2Proof/Machine/Operands.lean ====
section
/-! DEFINITION. Machine/Operands.lean: the ControlBitRegistry (R70 to R91) and the operand assembly of the block (R58, R60):
control words put together from signals, and taken apart into bytes. -/

namespace Sys2Proof.Machine

/-- The default `SIG`: the bit position of each signal (R74 to R89; D1, log 11). Halt at 15 and flag latch at 0 are the
source's. -/
def sig : Registry
  | .hlt => 15
  | .mi => 14
  | .ri => 13
  | .ro => 12
  | .io => 11
  | .ii => 10
  | .ai => 9
  | .ao => 8
  | .eo => 7
  | .su => 6
  | .bi => 5
  | .oi => 4
  | .ce => 3
  | .co => 2
  | .j => 1
  | .fi => 0

/-- The mask `m(n) = 1 << SIG(n)` of a signal (R71). -/
def signalMask (r : Registry) (n : Signal) : CWord := 1#16 <<< (r n).val

/-- `cw(n1, ..., nk)` over a registry: the OR of the masks, the zero word of no names (R71, R73). -/
def composeWith (r : Registry) : List Signal → CWord
  | [] => 0
  | n :: rest => signalMask r n ||| composeWith r rest

/-- `cw(n1, ..., nk)` over the default registry (R71). -/
def cw (names : List Signal) : CWord := composeWith sig names

/-- A control word asserts a signal: the signal's bit is 1 (R10). -/
def asserts (r : Registry) (w : CWord) (n : Signal) : Bool := w.getLsbD (r n).val

/-- The kinds of each signal; CO is both an out enable and a program-counter control (R90). -/
def signalKinds : Signal → List SignalKind
  | .hlt => [.halt]
  | .mi => [.registerIn]
  | .ri => [.registerIn]
  | .ro => [.registerOut]
  | .io => [.registerOut]
  | .ii => [.registerIn]
  | .ai => [.registerIn]
  | .ao => [.registerOut]
  | .eo => [.registerOut]
  | .su => [.aluMode]
  | .bi => [.registerIn]
  | .oi => [.registerIn]
  | .ce => [.programCounterControl]
  | .co => [.registerOut, .programCounterControl]
  | .j => [.programCounterControl]
  | .fi => [.flagLatch]

/-- `hi8(w) = w[15:8]` (R58). -/
def hi8 (w : CWord) : Byte := w.extractLsb' 8 8

/-- `lo8(w) = w[7:0]` (R58). -/
def lo8 (w : CWord) : Byte := w.extractLsb' 0 8

/-- The control word of its two bytes: `(zext_16(h) << 8) | zext_16(l)` (R58, R149). -/
def joinHalves (h l : Byte) : CWord := (h.setWidth 16 <<< 8) ||| l.setWidth 16

/-- The half of a control word that a byte-select picks (R50, R141). -/
def halfOf (b : ByteSelect) (w : CWord) : Byte :=
  match b with
  | .high => hi8 w
  | .low => lo8 w

/-- `FETCH0 = cw(MI, CO)`, the word of step 0 (R91). -/
def fetch0 : CWord := cw [.mi, .co]

/-- `FETCH1 = cw(RO, II, CE)`, the word of step 1 (R91). -/
def fetch1 : CWord := cw [.ro, .ii, .ce]

/-- `JUMPWORD = cw(IO, J)`: "instruction-register-out OR jump" (R91). -/
def jumpWord : CWord := cw [.io, .j]

end Sys2Proof.Machine
end

