-- ==== Sys2Proof/Machine/State.lean ====
section
/-! DEFINITION. Machine/State.lean: the state of the block as plain data (10_state.md), the reasons a step can stop, and
the state at the start of a run (R26, R180). -/

namespace Sys2Proof.Machine

/-- The image byte space as a sparse list of (address, byte) pairs in one canonical form (log 17). -/
abbrev Memory := List Host.Cell

/-- Where a run stands in the lifecycle of R25. Phase (3) of R25 is the two constructors `zeroFill` and `render`. -/
inductive Phase where
  /-- Phase (1): SIG and BASE exist. -/
  | constants
  /-- Phase (2): VT is to be computed. -/
  | expand
  /-- Phase (3), its beginning: IMG is to be zero-filled. -/
  | zeroFill
  /-- Phase (3), the walk over the decode domain. -/
  | render
  /-- Phase (4): the finished image is handed to the file sink. A run never leaves this phase. -/
  | emit
  deriving DecidableEq, Repr

/-- The block's exceptions: there is only one (R160). -/
inductive BlockException where
  | ioFailure
  deriving DecidableEq, Repr

/-- OUTCOME: the block's only status (R24). -/
inductive RunOutcome where
  | running
  | done
  | fault (e : BlockException)
  deriving DecidableEq, Repr

/-- Why the machine stops. -/
inductive Fault where
  /-- Raised by `step` alone, on a state whose OUTCOME is Fault(IOFailure): the run has ended, "there is no retry policy,
  no partial-success mode, and no mechanism for resuming a failed write" (R160, R166). Safe: the spec gives the block no
  further move of that run. -/
  | ioFailure
  deriving DecidableEq, Repr

/-- Why a step or an operation has no meaning. -/
inductive Refusal where
  /-- An instruction without a meaning yet, by its mnemonic. No arm of `exec` answers it. Safe. -/
  | notModelled (mnemonic : String)
  /-- Raised by a ROM read while render has not finished: "a read before render has finished is outside the model"
  (R147). Safe: nothing is claimed where the spec claims nothing. -/
  | imageNotFinished
  /-- Raised by a byte read or write at an address the image does not have, 2048 or above (R39, R162). Safe. No step
  reaches it: the port has 11 bits. -/
  | noSuchAddress (address : Nat)
  /-- Raised by a byte write at an address that is not below 1024: only those are ever written (R36, R143). Safe. No
  step reaches it. -/
  | notWritten (address : Nat)
  /-- Raised by a walk step in a state that has no variant table: no run reaches such a state (R25, R182). Safe. -/
  | variantTableNotComputed
  deriving DecidableEq, Repr

/-- The state of the block. Its first five fields are the spec's (10_state.md §1 and R26); `phase` is the lifecycle of
R25, `file` the output file of R30, `port` and `data` the input and output of the ROM view (R27); `draws` is the model's
own counter of free values (log 5). -/
structure State where
  /-- IMG (R15). -/
  img : Memory
  /-- The writer's walk index `a` (R16). -/
  a : Nat
  /-- TRACE (R17). -/
  trace : List TraceItem
  /-- OUTCOME (R24). -/
  outcome : RunOutcome
  /-- VT: not yet computed before phase (2), then the table (R14, R26; log 10). -/
  vt : Option VariantTable
  /-- The phase of the lifecycle (R25; log 9). -/
  phase : Phase
  /-- The output file: absent, or its bytes (R30, R151; log 8). -/
  file : Option (List Byte)
  /-- The address input `A[10:0]` of the ROM port (R27; log 4). -/
  port : BitVec 11
  /-- The data output `D[7:0]` of the ROM port: the byte the last read gave (R27, R147; log 3). -/
  data : Byte
  /-- How many free values this run has used: the model's own (log 5). -/
  draws : Nat
  deriving DecidableEq, Repr

/-- The state at the start of a run (R26, R180): IMG all 0x00, `a` = 0, TRACE empty, OUTCOME Running, VT not yet computed,
the first phase. The spec gives no start value for the file, the port and the data output: absent and zero are the
model's (logs 3, 4, 8). -/
def State.reset : State where
  img := []
  a := 0
  trace := []
  outcome := .running
  vt := none
  phase := .constants
  file := none
  port := 0
  data := 0
  draws := 0

end Sys2Proof.Machine
end

