-- ==== Sys2Proof/Machine/Ops.lean ====
section
/-! DEFINITION. Machine/Ops.lean: the named operations over the state: one update per field, the byte reads and writes of the
image, the ROM read, the environment's next address, and the block's one exception. -/

namespace Sys2Proof.Machine

/-- The machine's result type. -/
abbrev StepResult := Host.Outcome State Fault Refusal

/-- IMG replaced. -/
def State.setImg (s : State) (m : Memory) : State := { s with img := m }
/-- The walk index replaced. -/
def State.setA (s : State) (n : Nat) : State := { s with a := n }
/-- TRACE replaced. -/
def State.setTrace (s : State) (t : List TraceItem) : State := { s with trace := t }
/-- OUTCOME replaced. -/
def State.setOutcome (s : State) (o : RunOutcome) : State := { s with outcome := o }
/-- VT replaced. -/
def State.setVt (s : State) (v : Option VariantTable) : State := { s with vt := v }
/-- The phase replaced. -/
def State.setPhase (s : State) (p : Phase) : State := { s with phase := p }
/-- The output file replaced. -/
def State.setFile (s : State) (f : Option (List Byte)) : State := { s with file := f }
/-- The address input replaced. -/
def State.setPort (s : State) (a : BitVec 11) : State := { s with port := a }
/-- The data output replaced. -/
def State.setData (s : State) (d : Byte) : State := { s with data := d }
/-- The count of free values replaced. -/
def State.setDraws (s : State) (n : Nat) : State := { s with draws := n }

/-- What an address of the image that is not listed reads as: "any address not explicitly assigned remains the zero byte"
(R15; log 17). -/
def unlistedByte : Byte := 0

/-- The byte of a memory at an address. -/
def Memory.read : Memory → Nat → Byte
  | [], _ => unlistedByte
  | c :: rest, a => if c.1 = a then c.2 else Memory.read rest a

/-- A memory with one byte written, its canonical form kept: the entry goes where its address belongs, and writing what
an unlisted address reads as removes it. -/
def Memory.write : Memory → Nat → Byte → Memory
  | [], a, v => if v = unlistedByte then [] else [(a, v)]
  | c :: rest, a, v =>
    if a < c.1 then
      if v = unlistedByte then c :: rest else (a, v) :: c :: rest
    else if a = c.1 then
      if v = unlistedByte then rest else (a, v) :: rest
    else c :: Memory.write rest a v

/-- The canonical form, read from an address on: every listed address is at or above `low`, below the image's size and
strictly rising, and no listed byte is what an unlisted address reads as. -/
def Memory.wfFrom : Nat → Memory → Bool
  | _, [] => true
  | low, c :: rest =>
    decide (low ≤ c.1) && decide (c.1 < Config.imageSize) && decide (c.2 ≠ unlistedByte) && Memory.wfFrom (c.1 + 1) rest

/-- The canonical form of a memory. -/
def Memory.wf (m : Memory) : Bool := Memory.wfFrom 0 m

/-- `MemRead(addr, 1)`: the image byte for an address below 2048, and refused elsewhere (R35, R39). -/
def memRead (addr : Nat) (s : State) : Except Refusal Byte :=
  if addr < Config.imageSize then .ok (Memory.read s.img addr) else .error (.noSuchAddress addr)

/-- `MemWrite(addr, 1, v)`: render's write of one byte, for an address below 1024, and refused elsewhere (R36, R143). -/
def memWrite (addr : Nat) (v : Byte) (s : State) : Except Refusal State :=
  if addr < Config.decodeSize then .ok (s.setImg (Memory.write s.img addr v))
  else if addr < Config.imageSize then .error (.notWritten addr)
  else .error (.noSuchAddress addr)

/-- The bytes of the whole image in address order: what the file sink is handed (R151). -/
def imageBytes (m : Memory) : List Byte := (List.range Config.imageSize).map (Memory.read m)

/-- Render has finished: the run is in phase (4) or past it. Only then does the image exist for the ROM view (R25, R147;
log 19). -/
def renderFinished (s : State) : Bool := decide (s.phase = .emit)

/-- ROM read at an address: `D <- MemRead(A, 1)`, nothing else changes (R147). -/
def romRead (addr : Nat) (s : State) : StepResult :=
  if renderFinished s then
    match memRead addr s with
    | .ok v => .next (s.setData v)
    | .error r => .refused r
  else .refused .imageNotFinished

/-- ROM read at the address of the given fields (R53, R147). -/
def romReadFields (x : RomFields) (s : State) : StepResult := romRead (encodeFields x) s

/-- Control-word lookup `CW(f, o, s)`: two reads that differ only in the byte-select bit (R149). -/
def controlWordAt (m : Memory) (f : FlagState) (o : Opcode) (k : StepNo) : CWord :=
  joinHalves (Memory.read m (encodeFields ⟨f, .high, o, k⟩)) (Memory.read m (encodeFields ⟨f, .low, o, k⟩))

/-- Reading one instruction: the control words of steps 0 to 7, `fs i` the flag state presented at step `i` (R156). -/
def readInstruction (m : Memory) (fs : StepNo → FlagState) (o : Opcode) : Microprogram :=
  .tabulate fun k => controlWordAt m (fs k) o k

/-- The environment presents its next address at the port: a free value (R27, D16; log 4). -/
def presentAddress (s : State) : State :=
  (s.setPort (Config.presentedAddress s.draws)).setDraws (s.draws + 1)

/-- TAKING THE BLOCK'S EXCEPTION (R160, R165): `OUTCOME <- Fault(e)`. Nothing is recorded, no handler exists, no mode
changes, and the image stays as it is. There is no return from it (R166): a state with this outcome has no next state. -/
def raiseException (e : BlockException) (s : State) : State := s.setOutcome (.fault e)

/-- The host starts the generator again (R153, R166, R180; log 23): nothing survives but the output file, and what belongs to the
model and the environment (the port, the data output, the count of free values). It is the host's move, no step. -/
def startAgain (s : State) : State :=
  { State.reset with file := s.file, port := s.port, data := s.data, draws := s.draws }

end Sys2Proof.Machine
end

