-- ==== Sys2Proof/Machine/Emit.lean ====
section
/-! DEFINITION. Machine/Emit.lean: emit, the hand-over of the finished image to the file sink (R150, R151, R160). -/

namespace Sys2Proof.Machine

/-- Emit, given the host's answer: stored whole, the file holds the 2048 bytes of IMG verbatim and OUTCOME is Done; not
stored, IOFailure is raised and nothing is promised of the file, `leftover` (R150, R151, R160, R165). -/
def emitWith (stored : Bool) (leftover : Option (List Byte)) (s : State) : State :=
  if stored then (s.setFile (some (imageBytes s.img))).setOutcome .done
  else raiseException .ioFailure (s.setFile leftover)

/-- Emit: the host's answer and the file left by a failure are free values (logs 6 and 7). -/
def emit (s : State) : State :=
  emitWith (Config.hostStoresFile Config.outPath (imageBytes s.img) s.draws) (Config.fileAfterFailure s.draws) s

end Sys2Proof.Machine
end

