-- ==== Sys2Proof/Machine/Admissible.lean ====
section
/-! DEFINITION. Machine/Admissible.lean: the parameters SIG and BASE as the spec bounds them (R6): the constraints B1 to B8 on a
base table (R96), over any registry. -/

namespace Sys2Proof

open Sys2Proof.Machine

/-- What an admissible base table comes with (R6, R96): the registry, the opcode of each defined operation, the length of
each opcode's microprogram, and the table itself. Constraint B1 (totality) is the type's. The two fetch words are no
parameters: they follow from the registry (R91; log 26). -/
structure TableParameters where
  sig : Registry
  opcodeOf : Operation → Opcode
  length : Opcode → Nat
  base : OpcodeTable

/-- `FETCH0 = cw(MI, CO)` over the parameters' registry (R91; that this binds every admissible table is log 26). -/
def TableParameters.fetch0 (p : TableParameters) : CWord := composeWith p.sig [.mi, .co]

/-- `FETCH1 = cw(RO, II, CE)` over the parameters' registry (R91; that this binds every admissible table is log 26). -/
def TableParameters.fetch1 (p : TableParameters) : CWord := composeWith p.sig [.ro, .ii, .ce]

/-- B2: step 0 of every opcode is the first fetch word (R96). -/
def TableParameters.b2 (p : TableParameters) : Bool := decide (∀ o, p.base.entry o 0 = p.fetch0)

/-- B3: step 1 of every opcode is the second fetch word (R96). -/
def TableParameters.b3 (p : TableParameters) : Bool := decide (∀ o, p.base.entry o 1 = p.fetch1)

/-- B4: each opcode has a length in 2..8 from which on its words are zero, and step 7 of OPC_JC is zero (R96). -/
def TableParameters.b4 (p : TableParameters) : Bool :=
  decide (∀ o, 2 ≤ p.length o ∧ p.length o ≤ 8 ∧ ∀ s : StepNo, p.length o ≤ s.val → p.base.entry o s = 0) &&
    decide (p.base.entry Config.opcJc 7 = 0)

/-- An opcode that no defined operation has. -/
def TableParameters.undefinedOpcode (p : TableParameters) (o : Opcode) : Bool :=
  allOperations.all fun x => decide (p.opcodeOf x ≠ o)

/-- `TEMPLATE` over the parameters' registry: the two fetch words and six zero words (R98). -/
def TableParameters.template (p : TableParameters) : Microprogram := ⟨p.fetch0, p.fetch1, 0, 0, 0, 0, 0, 0⟩

/-- B5: an opcode with no defined operation keeps the template (R96). -/
def TableParameters.b5 (p : TableParameters) : Bool :=
  decide (∀ o, p.undefinedOpcode o = true → p.base.row o = p.template)

/-- B6: step 2 of both conditional jumps is the zero word in the base table (R96). -/
def TableParameters.b6 (p : TableParameters) : Bool :=
  decide (p.base.entry Config.opcJc Config.patchStep = 0) && decide (p.base.entry Config.opcJz Config.patchStep = 0)

/-- B7: the add and the subtract microprograms each have a step that asserts the flag latch (R96). -/
def TableParameters.b7 (p : TableParameters) : Bool :=
  decide (∃ s, asserts p.sig (p.base.entry (p.opcodeOf .add) s) .fi = true) &&
    decide (∃ s, asserts p.sig (p.base.entry (p.opcodeOf .subtract) s) .fi = true)

/-- B8: each defined operation has its own opcode, OPC_JC and OPC_JZ those of the conditional jumps (R96). -/
def TableParameters.b8 (p : TableParameters) : Bool :=
  (allOperations.all fun x => allOperations.all fun y => decide (x = y) || decide (p.opcodeOf x ≠ p.opcodeOf y)) &&
    decide (p.opcodeOf .jumpOnCarry = Config.opcJc) && decide (p.opcodeOf .jumpOnZero = Config.opcJz)

/-- The parameters of an admissible `SIG` and `BASE` (R6, R96, R182 items 1 and 2). -/
def TableParameters.admissible (p : TableParameters) : Bool :=
  p.sig.wellFormed && p.b2 && p.b3 && p.b4 && p.b5 && p.b6 && p.b7 && p.b8

end Sys2Proof
end

