-- ==== Sys2Proof/Machine/Flags.lean ====
section
/-! DEFINITION. Machine/Flags.lean: the two condition flags. The block only reads them, as address bits 9 and 8 (R20); it
computes none. Here: the four flag states, the condition of each conditional jump, and the one signal that asks the target
to latch its flags. -/

namespace Sys2Proof.Machine

/-- The four flag states in the order 00, 01, 10, 11 (R13). -/
def flagStates : List FlagState := [⟨false, false⟩, ⟨false, true⟩, ⟨true, false⟩, ⟨true, true⟩]

/-- The carry-conditional jump is taken exactly when Carry = 1; Zero plays no part (R123). -/
def carryJumpTaken (f : FlagState) : Bool := f.carry

/-- The zero-conditional jump is taken exactly when Zero = 1; Carry plays no part (R124). -/
def zeroJumpTaken (f : FlagState) : Bool := f.zero

/-- An entry the expander patches at a flag state: step 2 of a conditional jump whose condition holds (R123, R124). -/
def patched (f : FlagState) (o : Opcode) (s : StepNo) : Bool :=
  decide (s = Config.patchStep) &&
    ((decide (o = Config.opcJc) && carryJumpTaken f) || (decide (o = Config.opcJz) && zeroJumpTaken f))

/-- A control word asserts the flag latch, the one signal that lets the target change its flags (R20, R89). -/
def latchesFlags (w : CWord) : Bool := asserts sig w .fi

end Sys2Proof.Machine
end

