-- ==== Sys2Proof/Machine/Microprograms.lean ====
section
/-! DEFINITION. Machine/Microprograms.lean: the MicroprogramTable (R95 to R116): one base microprogram per opcode, under
the opcode's own name, and the base table BASE. The execute steps are the spec's defaults (D3, log 13), the opcode numbers
those of R61 (D2, log 12). -/

namespace Sys2Proof.Machine

/-- `TEMPLATE = [FETCH0, FETCH1, 0, 0, 0, 0, 0, 0]` (R98). -/
def template : Microprogram := ⟨fetch0, fetch1, 0, 0, 0, 0, 0, 0⟩

/-- The template with its steps 2, 3 and 4 replaced: the only steps an opcode of the default table uses (R98, R99). -/
def withExecuteSteps (w2 w3 w4 : CWord) : Microprogram := ⟨fetch0, fetch1, w2, w3, w4, 0, 0, 0⟩

/-- NOP, opcode 0000 (R100). -/
def microNop : Microprogram := template

/-- LDA, opcode 0001 (R101). -/
def microLda : Microprogram := withExecuteSteps (cw [.io, .mi]) (cw [.ro, .ai]) 0

/-- ADD, opcode 0010 (R102). -/
def microAdd : Microprogram := withExecuteSteps (cw [.io, .mi]) (cw [.ro, .bi]) (cw [.eo, .ai, .fi])

/-- SUB, opcode 0011 (R103). -/
def microSub : Microprogram := withExecuteSteps (cw [.io, .mi]) (cw [.ro, .bi]) (cw [.eo, .ai, .su, .fi])

/-- STA, opcode 0100 (R104). -/
def microSta : Microprogram := withExecuteSteps (cw [.io, .mi]) (cw [.ao, .ri]) 0

/-- LDI, opcode 0101 (R105). -/
def microLdi : Microprogram := withExecuteSteps (cw [.io, .ai]) 0 0

/-- JMP, opcode 0110 (R106). -/
def microJmp : Microprogram := withExecuteSteps (cw [.io, .j]) 0 0

/-- JC, opcode 0111: the base microprogram, before any patch (R107). -/
def microJc : Microprogram := template

/-- JZ, opcode 1000: the base microprogram, before any patch (R108). -/
def microJz : Microprogram := template

/-- UND9, opcode 1001 (R109). -/
def microUnd9 : Microprogram := template

/-- UND10, opcode 1010 (R110). -/
def microUnd10 : Microprogram := template

/-- UND11, opcode 1011 (R111). -/
def microUnd11 : Microprogram := template

/-- UND12, opcode 1100 (R112). -/
def microUnd12 : Microprogram := template

/-- UND13, opcode 1101 (R113). -/
def microUnd13 : Microprogram := template

/-- OUT, opcode 1110 (R114). -/
def microOut : Microprogram := withExecuteSteps (cw [.ao, .oi]) 0 0

/-- HLT, opcode 1111 (R115). -/
def microHlt : Microprogram := withExecuteSteps (cw [.hlt]) 0 0

/-- `BASE = baseTable()`: each microprogram under its own opcode (R61, R95, R116, R185). -/
def base : OpcodeTable where
  o0 := microNop
  o1 := microLda
  o2 := microAdd
  o3 := microSub
  o4 := microSta
  o5 := microLdi
  o6 := microJmp
  o7 := microJc
  o8 := microJz
  o9 := microUnd9
  o10 := microUnd10
  o11 := microUnd11
  o12 := microUnd12
  o13 := microUnd13
  o14 := microOut
  o15 := microHlt

/-- The opcode of each defined operation (R61; D2, log 12). -/
def opcodeOf : Operation → Opcode
  | .loadAccumulator => 1
  | .add => 2
  | .subtract => 3
  | .storeAccumulator => 4
  | .loadImmediate => 5
  | .jump => 6
  | .jumpOnCarry => 7
  | .jumpOnZero => 8
  | .output => 14
  | .halt => 15

/-- The lengths `L(o)` of the default microprograms (R99). -/
def microLength (o : Opcode) : Nat :=
  match o.val with
  | 1 => 4
  | 2 => 5
  | 3 => 5
  | 4 => 4
  | 5 => 3
  | 6 => 3
  | 14 => 3
  | 15 => 3
  | _ => 2

/-- The default parameters the model runs (R6, R96). -/
def defaultParameters : TableParameters where
  sig := sig
  opcodeOf := opcodeOf
  length := microLength
  base := base

end Sys2Proof.Machine
end

