-- ==== Sys2Proof/Machine/Expand.lean ====
section
/-! DEFINITION. Machine/Expand.lean: the FlagVariantExpander (R120 to R135): four independent copies of the base table and
the conditional-jump patches, as the procedure of R121 and as the closed form of R127. -/

namespace Sys2Proof.Machine

/-- The assignment `VT[f][o][s] <- w`: it changes that one entry and no other (R121, R122). -/
def assignEntry (v : VariantTable) (f : FlagState) (o : Opcode) (s : StepNo) (w : CWord) : VariantTable :=
  .tabulate fun f' => .tabulate fun o' => .tabulate fun s' =>
    if f' = f ∧ o' = o ∧ s' = s then w else v.entry f' o' s'

/-- Step 1 of `expand`: four copies of the base table, by value, entry by entry (R121, R122). -/
def copies (t : OpcodeTable) : VariantTable :=
  .tabulate fun _ => .tabulate fun o => .tabulate fun s => t.entry o s

/-- The patches of one flag state (R121, R123, R124). -/
def patchVariant (jw : CWord) (v : VariantTable) (f : FlagState) : VariantTable :=
  let v1 := if carryJumpTaken f then assignEntry v f Config.opcJc Config.patchStep jw else v
  if zeroJumpTaken f then assignEntry v1 f Config.opcJz Config.patchStep jw else v1

/-- `expand(base)`: all copies first, then the patches, flag state by flag state (R121). The jump word is an argument, so
that what is proved of it holds for every admissible registry. -/
def expand (jw : CWord) (t : OpcodeTable) : VariantTable := flagStates.foldl (patchVariant jw) (copies t)

/-- The closed form `T(f, o, s)` over any jump word and base table (R127). -/
def resolvedWith (jw : CWord) (t : OpcodeTable) (f : FlagState) (o : Opcode) (s : StepNo) : CWord :=
  if patched f o s then jw else t.entry o s

/-- `T(f, o, s)` over the defaults (R127). -/
def resolved (f : FlagState) (o : Opcode) (s : StepNo) : CWord := resolvedWith jumpWord base f o s

/-- The build the source forbids: the four variants are one shared table, so both patches show in each (R134; U4,
log 20). It is no value of `expand`. -/
def aliasedTable (jw : CWord) (t : OpcodeTable) : VariantTable :=
  .tabulate fun _ => .tabulate fun o => .tabulate fun s =>
    if s = Config.patchStep ∧ (o = Config.opcJc ∨ o = Config.opcJz) then jw else t.entry o s

end Sys2Proof.Machine
end

