-- ==== Sys2Proof/Machine/Render.lean ====
section
/-! DEFINITION. Machine/Render.lean: the ROMImageWriter (R140 to R152): the walk that writes the image and the trace, one
address at a time, and the closed form of the finished image. -/

namespace Sys2Proof.Machine

/-- The trace items of one address: a record below step 6, and a blank marker after a step-5 record (R140, R148). -/
def traceItemsOf (a : Nat) (x : RomFields) (w : CWord) : List TraceItem :=
  (if x.s.val < Config.traceSteps then [.record ⟨a, x.f, x.b, x.o, x.s, w⟩] else []) ++
    (if x.s.val = 5 then [.blank] else [])

/-- One iteration of render at the walk index: decode, look up, write the selected half, trace, advance (R140, R141). -/
def renderIteration (v : VariantTable) (s : State) : StepResult :=
  let x := decodeFields s.a
  let w := v.entry x.f x.o x.s
  match memWrite s.a (halfOf x.b w) s with
  | .ok t => .next ((t.setTrace (s.trace ++ traceItemsOf s.a x w)).setA (s.a + 1))
  | .error r => .refused r

/-- One step of render's loop: an iteration while `a < 1024`, then the end of the loop (R140). -/
def renderStep (s : State) : StepResult :=
  if s.a < Config.decodeSize then
    match s.vt with
    | some v => renderIteration v s
    | none => .refused .variantTableNotComputed
  else .next (s.setPhase .emit)

/-- The beginning of render: IMG zero-filled, TRACE empty, `a` = 0 (R140). -/
def beginRender (s : State) : State := (((s.setImg []).setTrace []).setA 0).setPhase .render

/-- The text of a trace: one line a record in the format TRACE_FMT, an empty line for a blank marker (R148). -/
def traceText (t : List TraceItem) : List String :=
  t.map fun
    | .record r => Config.traceFmt r
    | .blank => ""

/-- The closed form of the image byte at an address (R144). -/
def imageByte (a : Nat) : Byte :=
  if a < Config.decodeSize then
    let x := decodeFields a
    halfOf x.b (resolved x.f x.o x.s)
  else 0

/-- The finished image as a memory: every byte of the closed form that is not what an unlisted address reads as (R144). -/
def finishedImage : Memory :=
  (List.range Config.imageSize).filterMap fun a =>
    if imageByte a = unlistedByte then none else some (a, imageByte a)

/-- The trace of the walk over the addresses below `n`, in closed form (R148). -/
def traceBelow (n : Nat) : List TraceItem :=
  (List.range n).flatMap fun a =>
    let x := decodeFields a
    traceItemsOf a x (resolved x.f x.o x.s)

end Sys2Proof.Machine
end

