-- ==== Sys2Proof/Machine/Generator.lean ====
section
/-! DEFINITION. Machine/Generator.lean: one step of a running generator, phase by phase (R25, R182). -/

namespace Sys2Proof.Machine

/-- Phase (2): `VT <- expand(BASE)` (R25, R120). -/
def expandStep (s : State) : State := (s.setVt (some (expand jumpWord base))).setPhase .zeroFill

/-- One step of a running generator, in the order of the lifecycle (R25). Phase (1) has nothing to do but to end. -/
def generatorStep (s : State) : StepResult :=
  match s.phase with
  | .constants => .next (s.setPhase .expand)
  | .expand => .next (expandStep s)
  | .zeroFill => .next (beginRender s)
  | .render => renderStep s
  | .emit => .next (emit s)

end Sys2Proof.Machine
end

