-- ==== Sys2Proof/Machine/Arith.lean ====
section
/-! DEFINITION. Machine/Arith.lean: the arithmetic opcodes ADD and SUB, the two that assert the flag latch. Each meaning is the ROM read of its row (R147); which byte that
gives follows from the image render wrote (R141, R144). -/

namespace Sys2Proof.Machine

/-- ADD: the ROM read at `encode(f, b, 0010, k)` (R102, R147). -/
def execAdd (f : FlagState) (b : ByteSelect) (k : StepNo) (s : State) : StepResult :=
  romReadFields ⟨f, b, 2, k⟩ s

/-- SUB: the ROM read at `encode(f, b, 0011, k)` (R103, R147). -/
def execSub (f : FlagState) (b : ByteSelect) (k : StepNo) (s : State) : StepResult :=
  romReadFields ⟨f, b, 3, k⟩ s

end Sys2Proof.Machine
end

