-- ==== Sys2Proof/Machine/FetchOnly.lean ====
section
/-! DEFINITION. Machine/FetchOnly.lean: the opcodes whose microprogram is the fetch-only template in every flag state: NOP and the five undefined
opcodes, which read exactly as NOP does (R62, R68). Each meaning is the ROM read of its row (R147); which byte that
gives follows from the image render wrote (R141, R144). -/

namespace Sys2Proof.Machine

/-- NOP: the ROM read at `encode(f, b, 0000, k)` (R100, R147). -/
def execNop (f : FlagState) (b : ByteSelect) (k : StepNo) (s : State) : StepResult :=
  romReadFields ⟨f, b, 0, k⟩ s

/-- UND9: the ROM read at `encode(f, b, 1001, k)` (R109, R147). -/
def execUnd9 (f : FlagState) (b : ByteSelect) (k : StepNo) (s : State) : StepResult :=
  romReadFields ⟨f, b, 9, k⟩ s

/-- UND10: the ROM read at `encode(f, b, 1010, k)` (R110, R147). -/
def execUnd10 (f : FlagState) (b : ByteSelect) (k : StepNo) (s : State) : StepResult :=
  romReadFields ⟨f, b, 10, k⟩ s

/-- UND11: the ROM read at `encode(f, b, 1011, k)` (R111, R147). -/
def execUnd11 (f : FlagState) (b : ByteSelect) (k : StepNo) (s : State) : StepResult :=
  romReadFields ⟨f, b, 11, k⟩ s

/-- UND12: the ROM read at `encode(f, b, 1100, k)` (R112, R147). -/
def execUnd12 (f : FlagState) (b : ByteSelect) (k : StepNo) (s : State) : StepResult :=
  romReadFields ⟨f, b, 12, k⟩ s

/-- UND13: the ROM read at `encode(f, b, 1101, k)` (R113, R147). -/
def execUnd13 (f : FlagState) (b : ByteSelect) (k : StepNo) (s : State) : StepResult :=
  romReadFields ⟨f, b, 13, k⟩ s

end Sys2Proof.Machine
end

