-- ==== Sys2Proof/Machine/Jump.lean ====
section
/-! DEFINITION. Machine/Jump.lean: the control-transfer opcodes JMP, JC and JZ (R135). JC and JZ have a meaning for each of
their two rows, split on the flag they read (R128, R129). Each meaning is the ROM read of its row (R147). -/

namespace Sys2Proof.Machine

/-- JMP: the ROM read at `encode(f, b, 0110, k)` (R106, R147). -/
def execJmp (f : FlagState) (b : ByteSelect) (k : StepNo) (s : State) : StepResult :=
  romReadFields ⟨f, b, 6, k⟩ s

/-- JC at Carry = 0, not taken: the ROM read at `encode({zero, 0}, b, 0111, k)` (R107, R128, R147). -/
def execJcNotTaken (zero : Bool) (b : ByteSelect) (k : StepNo) (s : State) : StepResult :=
  romReadFields ⟨⟨zero, false⟩, b, 7, k⟩ s

/-- JC at Carry = 1, taken: the ROM read at `encode({zero, 1}, b, 0111, k)` (R107, R128, R147). -/
def execJcTaken (zero : Bool) (b : ByteSelect) (k : StepNo) (s : State) : StepResult :=
  romReadFields ⟨⟨zero, true⟩, b, 7, k⟩ s

/-- JZ at Zero = 0, not taken: the ROM read at `encode({0, carry}, b, 1000, k)` (R108, R129, R147). -/
def execJzNotTaken (carry : Bool) (b : ByteSelect) (k : StepNo) (s : State) : StepResult :=
  romReadFields ⟨⟨false, carry⟩, b, 8, k⟩ s

/-- JZ at Zero = 1, taken: the ROM read at `encode({1, carry}, b, 1000, k)` (R108, R129, R147). -/
def execJzTaken (carry : Bool) (b : ByteSelect) (k : StepNo) (s : State) : StepResult :=
  romReadFields ⟨⟨true, carry⟩, b, 8, k⟩ s

end Sys2Proof.Machine
end

