-- ==== Sys2Proof/Machine/LoadStore.lean ====
section
/-! DEFINITION. Machine/LoadStore.lean: the load and store opcodes LDA, STA and LDI. Each meaning is the ROM read of its row (R147); which byte that
gives follows from the image render wrote (R141, R144). -/

namespace Sys2Proof.Machine

/-- LDA: the ROM read at `encode(f, b, 0001, k)` (R101, R147). -/
def execLda (f : FlagState) (b : ByteSelect) (k : StepNo) (s : State) : StepResult :=
  romReadFields ⟨f, b, 1, k⟩ s

/-- STA: the ROM read at `encode(f, b, 0100, k)` (R104, R147). -/
def execSta (f : FlagState) (b : ByteSelect) (k : StepNo) (s : State) : StepResult :=
  romReadFields ⟨f, b, 4, k⟩ s

/-- LDI: the ROM read at `encode(f, b, 0101, k)` (R105, R147). -/
def execLdi (f : FlagState) (b : ByteSelect) (k : StepNo) (s : State) : StepResult :=
  romReadFields ⟨f, b, 5, k⟩ s

end Sys2Proof.Machine
end

