-- ==== Sys2Proof/Machine/OutHalt.lean ====
section
/-! DEFINITION. Machine/OutHalt.lean: the output opcode OUT and the halt opcode HLT. HLT stops the target, not this block: it keeps answering
reads (R115, R177). Each meaning is the ROM read of its row (R147); which byte that
gives follows from the image render wrote (R141, R144). -/

namespace Sys2Proof.Machine

/-- OUT: the ROM read at `encode(f, b, 1110, k)` (R114, R147). -/
def execOut (f : FlagState) (b : ByteSelect) (k : StepNo) (s : State) : StepResult :=
  romReadFields ⟨f, b, 14, k⟩ s

/-- HLT: the ROM read at `encode(f, b, 1111, k)` (R115, R147). -/
def execHlt (f : FlagState) (b : ByteSelect) (k : StepNo) (s : State) : StepResult :=
  romReadFields ⟨f, b, 15, k⟩ s

end Sys2Proof.Machine
end

