-- ==== Sys2Proof/Machine/Dispatch.lean ====
section
/-! DEFINITION. Machine/Dispatch.lean: exec, one arm for each constructor of Instr. -/

namespace Sys2Proof.Machine

def exec (i : Instr) (s : State) : Host.Outcome State Fault Refusal :=
  match i with
  | .nop f b k => Sys2Proof.Machine.execNop f b k s
  | .lda f b k => Sys2Proof.Machine.execLda f b k s
  | .add f b k => Sys2Proof.Machine.execAdd f b k s
  | .sub f b k => Sys2Proof.Machine.execSub f b k s
  | .sta f b k => Sys2Proof.Machine.execSta f b k s
  | .ldi f b k => Sys2Proof.Machine.execLdi f b k s
  | .jmp f b k => Sys2Proof.Machine.execJmp f b k s
  | .jcNotTaken zero b k => Sys2Proof.Machine.execJcNotTaken zero b k s
  | .jcTaken zero b k => Sys2Proof.Machine.execJcTaken zero b k s
  | .jzNotTaken carry b k => Sys2Proof.Machine.execJzNotTaken carry b k s
  | .jzTaken carry b k => Sys2Proof.Machine.execJzTaken carry b k s
  | .und9 f b k => Sys2Proof.Machine.execUnd9 f b k s
  | .und10 f b k => Sys2Proof.Machine.execUnd10 f b k s
  | .und11 f b k => Sys2Proof.Machine.execUnd11 f b k s
  | .und12 f b k => Sys2Proof.Machine.execUnd12 f b k s
  | .und13 f b k => Sys2Proof.Machine.execUnd13 f b k s
  | .out f b k => Sys2Proof.Machine.execOut f b k s
  | .hlt f b k => Sys2Proof.Machine.execHlt f b k s

end Sys2Proof.Machine
end

