-- ==== Sys2Proof/Machine/RomView.lean ====
section
/-! DEFINITION. Machine/RomView.lean: the finished image read as hardware (R27, R147): the instruction at the port, and one
step of the read port. -/

namespace Sys2Proof.Machine

/-- The instruction the environment presents: the address at the port, decoded (R51, R55). -/
def presentedInstr (s : State) : Except DecodeReject Instr := decode s.port.toNat

/-- A read at an address with `A[10] = 1`: it is not decoded, and gives the image's byte, 0x00 (R55, R143, R147). -/
def readUpperHalf (s : State) : StepResult := romRead s.port.toNat s

/-- One read of the ROM at the port's address: the instruction there is executed, or the upper half read (R55, R147). -/
def romStep (s : State) : StepResult :=
  match presentedInstr s with
  | .ok i => exec i s
  | .error _ => readUpperHalf s

end Sys2Proof.Machine
end

