-- ==== Sys2Proof/Machine/Block.lean ====
section
/-! DEFINITION. Machine/Block.lean: one move of the whole block, the environment's move after it, and the placing of a read
at the port of a finished block. -/

namespace Sys2Proof.Machine

/-- What the block does in one step, by OUTCOME: a running generator goes on, a finished one is the ROM, and a failed run
has ended (R24, R25, R160, R166). -/
def blockStep (s : State) : StepResult :=
  match s.outcome with
  | .running => generatorStep s
  | .done => romStep s
  | .fault .ioFailure => .fault .ioFailure

/-- After a move of the block the environment presents its next address (R27, D16; log 4). -/
def thenPresent : StepResult → StepResult
  | .next t => .next (presentAddress t)
  | .fault r => .fault r
  | .refused r => .refused r

/-- `s` as a finished block with an address at its port: the image finished, the run in its last phase and Done (log 2). -/
def placeRead (a : Nat) (s : State) : State :=
  (((s.setImg finishedImage).setPhase .emit).setOutcome .done).setPort (BitVec.ofNat 11 a)

end Sys2Proof.Machine
end

