-- ==== Sys2Proof/Machine/Step.lean ====
section
/-! DEFINITION. Machine/Step.lean: the step of the machine, and the placing of an instruction where the next step fetches. -/

namespace Sys2Proof.Machine

/-- One step: the block's move, and then the environment presents its next address (R25, R27; log 2, log 4). -/
def step (s : State) : Host.Outcome State Fault Refusal := thenPresent (blockStep s)

/-- `s` with the instruction presented at the ROM port of a finished block, so that the very next step reads it (log 2). -/
def State.withFetchWord (s : State) (nbits w : Nat) : State := placeRead (tableWordAddress nbits w) s

end Sys2Proof.Machine
end

