-- ==== Sys2Proof/Safety.lean ====
section
/-! DEFINITION. Safety.lean: what the statements call a good state: the invariant of the block, a finished image, a finished
machine, and two states that agree on everything but the trace. -/

namespace Sys2Proof.Machine

/-- The invariant of the block: what every state of a run satisfies. -/
structure BlockInv (s : State) : Prop where
  /-- The image is in its canonical form (log 17). -/
  canonical : Memory.wf s.img = true
  /-- The walk index never exceeds 1024 (R16). -/
  index_le : s.a ≤ Config.decodeSize
  /-- Every address the walk has passed holds its byte, every other address is zero (R141, R143, R144). -/
  written : ∀ addr, Memory.read s.img addr = if addr < s.a then imageByte addr else 0
  /-- The trace is that of the addresses passed (R148). -/
  traced : s.trace = traceBelow s.a
  /-- VT is not there before phase (2) has run, and is `expand(BASE)` from then on (R26). -/
  table : s.vt = if s.phase = .constants ∨ s.phase = .expand then none else some (expand jumpWord base)
  /-- The walk has not begun before its phase (R25, R26). -/
  not_begun : s.phase ≠ .render → s.phase ≠ .emit → s.a = 0
  /-- The walk is over in the last phase (R16, R25). -/
  walk_over : s.phase = .emit → s.a = Config.decodeSize
  /-- OUTCOME leaves Running only in the last phase (R24, R160). -/
  outcome_last : s.outcome ≠ .running → s.phase = .emit
  /-- After Done the file holds the image's bytes (R150, R151). -/
  file_whole : s.outcome = .done → s.file = some (imageBytes s.img)

/-- The finished image, as the ROM view reads it: render has finished and each byte is that of the closed form (R144). -/
def Finished (s : State) : Prop :=
  s.phase = .emit ∧ ∀ addr, addr < Config.imageSize → Memory.read s.img addr = imageByte addr

/-- A state of a finished machine: the end of Program C of 95_test_vectors.md §4.3, before any read. -/
def finishedState : State where
  img := finishedImage
  a := Config.decodeSize
  trace := traceBelow Config.decodeSize
  outcome := .done
  vt := some (expand jumpWord base)
  phase := .emit
  file := some (imageBytes finishedImage)
  port := 0
  data := 0
  draws := 0

/-- Two states that differ in the trace at most. -/
def AgreeButTrace (s t : State) : Prop := s.setTrace [] = t.setTrace []

end Sys2Proof.Machine
end

