-- ==== Sys2Proof/Certificates/Slice0/Obligations.lean ====
section
/-! DEFINITION. Certificates/Slice0/Obligations.lean: the statements about the block, for the provers. Where a statement
speaks of a concrete control word, signal position, opcode number other than 0111 and 1000, flag bit order, walk order or
start value, it rests on the spec's own decisions D1, D2, D3, D5, D7, D10, D15 (logs 6 to 15) or on a log entry it names, and its basis is derived. -/

open Sys2Proof Sys2Proof.Machine

/-! ### Address encoding -/

/-- Decoding the address of any instruction gives the instruction back, every operand included (R54 read through the
opcode map of R61). -/
def Obligations.DecodeOfEncodeIsTheInstruction : Prop :=
  ∀ i : Instr, decode (encode i) = .ok i

/-- R54: every address of the decode domain, decoded and composed back, is itself, and every combination of fields,
encoded and decoded, is itself. -/
def Obligations.AddressRoundTrip : Prop :=
  (∀ a, a < 1024 → ∃ x, decodeAddress a = .ok x ∧
    ((x.f.number <<< 8) ||| (x.b.number <<< 7) ||| (x.o.val <<< 3) ||| x.s.val) = a) ∧
  ∀ x : RomFields, decodeAddress (encodeFields x) = .ok x

/-- R53: for fields in range, encode is the OR of the shifted fields, is their weighted sum, and lies below 1024. -/
def Obligations.EncodedAddressIsTheWeightedSum : Prop :=
  ∀ f b o s, fieldsInRange f b o s = true →
    encodeNumbers f b o s = ((f <<< 8) ||| (b <<< 7) ||| (o <<< 3) ||| s) ∧
    encodeNumbers f b o s = 256 * f + 128 * b + 8 * o + s ∧
    encodeNumbers f b o s < 1024

/-- The fields of an address are the bits the layout of R50 names; that bit 9 is Zero and bit 8 Carry is D5 (log 14). -/
def Obligations.AddressFieldsLieWhereTheLayoutPutsThem : Prop :=
  ∀ a, a < 1024 → ∃ x, decodeAddress a = .ok x ∧
    x.f.zero = a.testBit 9 ∧ x.f.carry = a.testBit 8 ∧ x.b.number = (a.testBit 7).toNat ∧
    (∀ i, i < 4 → x.o.val.testBit i = a.testBit (3 + i)) ∧ (∀ i, i < 3 → x.s.val.testBit i = a.testBit i)

/-- The decoder has a value below 1024 and none at or above it (R52). -/
def Obligations.DecodeHasAValueExactlyInItsDomain : Prop :=
  ∀ a, (a < 1024 → ∃ i, decode a = .ok i) ∧ (1024 ≤ a → decode a = .error (.outsideDecodeDomain a))

/-- The eighteen rows of the opcode table are total and disjoint over the decode domain, and the decoder gives the
instruction of the row that covers the address (30_encoding.md §6). -/
def Obligations.EveryAddressMatchesItsOneRow : Prop :=
  ∀ a, a < 1024 → (opcodeRows.filter fun r => r.covers a).length = 1 ∧
    ∃ i, decode a = .ok i ∧ (rowOfInstr i).covers a = true ∧ rowOfInstr i ∈ opcodeRows

/-- Addresses of 95_test_vectors.md §3.2, bit by bit, decode to the instructions they stand for. -/
def Obligations.SampleAddressesDecode : Prop :=
  decodeTableWord 16 0b0000000001 = some (.nop ⟨false, false⟩ .high 1) ∧
  decodeTableWord 16 0b0100001111 = some (.lda ⟨false, true⟩ .high 7) ∧
  decodeTableWord 16 0b0010010100 = some (.add ⟨false, false⟩ .low 4) ∧
  decodeTableWord 16 0b0100111010 = some (.jcTaken false .high 2) ∧
  decodeTableWord 16 0b1001000010 = some (.jzTaken false .high 2) ∧
  decodeTableWord 16 0b1010101010 = some (.ldi ⟨true, false⟩ .low 2) ∧
  decodeTableWord 16 0b1101010101 = some (.und10 ⟨true, true⟩ .high 5) ∧
  decodeTableWord 16 0b1111111111 = some (.hlt ⟨true, true⟩ .low 7) ∧
  decodeTableWord 16 0b10000000000 = none

/-! ### Control signals and control words -/

/-- R72: a registry in which no two signals claim the same bit is a bijection onto the bits 0..15, so that no bit is spare,
and the model's is one; a registry in which two names share a bit is not a registry of this block. -/
def Obligations.EveryBitBelongsToExactlyOneSignal : Prop :=
  (∀ r : Registry, r.injective = true → Function.Bijective r) ∧ sig.wellFormed = true ∧
    ∀ (r : Registry) (m n : Signal), m ≠ n → r m = r n → r.wellFormed = false

/-- R71, for every injective registry: a composed word has a signal's bit exactly when the signal is named, the order of
the names does not matter, naming one twice changes nothing, and the value is the sum of the masks of distinct names. -/
def Obligations.CompositionAssertsExactlyTheNamedSignals : Prop :=
  ∀ r : Registry, r.injective = true → ∀ names : List Signal,
    (∀ n, asserts r (composeWith r names) n = true ↔ n ∈ names) ∧
    (∀ names', names.Perm names' → composeWith r names' = composeWith r names) ∧
    (∀ n, n ∈ names → composeWith r (n :: names) = composeWith r names) ∧
    (composeWith r names).toNat = (names.dedup.map fun n => 2 ^ (r n).val).sum

/-- The halves of a control word lose nothing, and each byte's bit i is word bit i + 8 or i (R58, R142). -/
def Obligations.HalvesOfAWordLoseNothing : Prop :=
  ∀ w : CWord, joinHalves (hi8 w) (lo8 w) = w ∧
    ∀ i, i < 8 → (halfOf .high w).getLsbD i = w.getLsbD (i + 8) ∧ (halfOf .low w).getLsbD i = w.getLsbD i

/-- Where the eight high-byte signals are asserted in the default variant table, and nowhere else (R74 to R81). -/
def Obligations.HighByteSignalsAreAssertedWhereTheirRulesSay : Prop :=
  ∀ (f : FlagState) (o : Opcode) (k : StepNo),
    (asserts sig (resolved f o k) .hlt = true ↔ o = 15 ∧ k = 2) ∧
    (asserts sig (resolved f o k) .mi = true ↔ k = 0 ∨ (o = 1 ∨ o = 2 ∨ o = 3 ∨ o = 4) ∧ k = 2) ∧
    (asserts sig (resolved f o k) .ri = true ↔ o = 4 ∧ k = 3) ∧
    (asserts sig (resolved f o k) .ro = true ↔ k = 1 ∨ (o = 1 ∨ o = 2 ∨ o = 3) ∧ k = 3) ∧
    (asserts sig (resolved f o k) .io = true ↔
      k = 2 ∧ (o = 1 ∨ o = 2 ∨ o = 3 ∨ o = 4 ∨ o = 5 ∨ o = 6 ∨ o = 7 ∧ f.carry = true ∨ o = 8 ∧ f.zero = true)) ∧
    (asserts sig (resolved f o k) .ii = true ↔ k = 1) ∧
    (asserts sig (resolved f o k) .ai = true ↔ o = 1 ∧ k = 3 ∨ (o = 2 ∨ o = 3) ∧ k = 4 ∨ o = 5 ∧ k = 2) ∧
    (asserts sig (resolved f o k) .ao = true ↔ o = 4 ∧ k = 3 ∨ o = 14 ∧ k = 2)

/-- Where the eight low-byte signals are asserted in the default variant table, and nowhere else (R82 to R89). -/
def Obligations.LowByteSignalsAreAssertedWhereTheirRulesSay : Prop :=
  ∀ (f : FlagState) (o : Opcode) (k : StepNo),
    (asserts sig (resolved f o k) .eo = true ↔ (o = 2 ∨ o = 3) ∧ k = 4) ∧
    (asserts sig (resolved f o k) .su = true ↔ o = 3 ∧ k = 4) ∧
    (asserts sig (resolved f o k) .bi = true ↔ (o = 2 ∨ o = 3) ∧ k = 3) ∧
    (asserts sig (resolved f o k) .oi = true ↔ o = 14 ∧ k = 2) ∧
    (asserts sig (resolved f o k) .ce = true ↔ k = 1) ∧
    (asserts sig (resolved f o k) .co = true ↔ k = 0) ∧
    (asserts sig (resolved f o k) .j = true ↔
      k = 2 ∧ (o = 6 ∨ o = 7 ∧ f.carry = true ∨ o = 8 ∧ f.zero = true)) ∧
    (asserts sig (resolved f o k) .fi = true ↔ (o = 2 ∨ o = 3) ∧ k = 4)

/-! ### The base table and its expansion -/

/-- The default SIG and BASE satisfy the registry's rules and the constraints B1 to B8 (R72, R96), and each opcode's used
steps are exactly those below its length L(o), none of them above 4 (R99). -/
def Obligations.DefaultTablesAreAdmissible : Prop :=
  defaultParameters.admissible = true ∧
    ∀ (o : Opcode) (k : StepNo), (base.entry o k = 0 ↔ microLength o ≤ k.val) ∧ microLength o ≤ 5

/-- The closed form of R127, for every jump word and base table: the procedure of R121 gives T(f, o, s). -/
def Obligations.ExpandedTableHasTheClosedForm : Prop :=
  ∀ (jw : CWord) (t : OpcodeTable) (f : FlagState) (o : Opcode) (s : StepNo),
    (expand jw t).entry f o s =
      if o = 7 ∧ s = 2 ∧ f.carry = true then jw
      else if o = 8 ∧ s = 2 ∧ f.zero = true then jw
      else t.entry o s

/-- R123, for every registry and every base table with constraint B6, so for every admissible one: step 2 of opcode 0111 is the jump word if and only if Carry = 1, and otherwise the
base's word, which is zero. -/
def Obligations.CarryJumpIsPatchedExactlyOnCarry : Prop :=
  ∀ p : TableParameters, p.sig.wellFormed = true → p.b6 = true → ∀ f : FlagState,
    (f.carry = true → (expand (composeWith p.sig [.io, .j]) p.base).entry f 7 2 = composeWith p.sig [.io, .j]) ∧
    (f.carry = false → (expand (composeWith p.sig [.io, .j]) p.base).entry f 7 2 = p.base.entry 7 2 ∧
      p.base.entry 7 2 = 0) ∧
    composeWith p.sig [.io, .j] ≠ 0

/-- R124, for every registry and every base table with constraint B6, so for every admissible one: step 2 of opcode 1000 is the jump word if and only if Zero = 1, and otherwise the
base's word, which is zero. -/
def Obligations.ZeroJumpIsPatchedExactlyOnZero : Prop :=
  ∀ p : TableParameters, p.sig.wellFormed = true → p.b6 = true → ∀ f : FlagState,
    (f.zero = true → (expand (composeWith p.sig [.io, .j]) p.base).entry f 8 2 = composeWith p.sig [.io, .j]) ∧
    (f.zero = false → (expand (composeWith p.sig [.io, .j]) p.base).entry f 8 2 = p.base.entry 8 2 ∧
      p.base.entry 8 2 = 0) ∧
    composeWith p.sig [.io, .j] ≠ 0

/-- Four entries of the 512 are changed in all: the entries that differ from the base table are exactly step 2 of 0111 at
the two flag states with Carry and step 2 of 1000 at the two with Zero (R125, R126), for every registry and every base table with
constraint B6, so for every admissible one. -/
def Obligations.ExactlyFourEntriesArePatched : Prop :=
  ∀ p : TableParameters, p.sig.wellFormed = true → p.b6 = true → ∀ (f : FlagState) (o : Opcode) (s : StepNo),
    (expand (composeWith p.sig [.io, .j]) p.base).entry f o s ≠ p.base.entry o s ↔
      (f, o, s) ∈ ([(⟨false, true⟩, 7, 2), (⟨true, true⟩, 7, 2), (⟨true, false⟩, 8, 2), (⟨true, true⟩, 8, 2)] :
        List (FlagState × Opcode × StepNo))

/-- R122: an assignment to one entry changes that entry and no other, of any variant, opcode or step. -/
def Obligations.AssignmentChangesOneEntryOnly : Prop :=
  ∀ (v : VariantTable) (f f' : FlagState) (o o' : Opcode) (s s' : StepNo) (w : CWord),
    (assignEntry v f o s w).entry f o s = w ∧
    ((f', o', s') ≠ (f, o, s) → (assignEntry v f o s w).entry f' o' s' = v.entry f' o' s')

/-- Whatever two words a base table has at the steps 0 and 1 of all its opcodes, every resolved microprogram has them there
(R130), for every jump word; and an admissible table has the words FETCH0 = cw(MI, CO) and FETCH1 = cw(RO, II, CE) of its
registry there (R91, R96; that R91 binds every admissible table is log 26). -/
def Obligations.FetchPrologueIsUniversal : Prop :=
  (∀ (jw : CWord) (t : OpcodeTable) (w0 w1 : CWord), (∀ o, t.entry o 0 = w0) → (∀ o, t.entry o 1 = w1) →
    ∀ (f : FlagState) (o : Opcode), (expand jw t).entry f o 0 = w0 ∧ (expand jw t).entry f o 1 = w1) ∧
  ∀ p : TableParameters, p.admissible = true → ∀ (jw : CWord) (f : FlagState) (o : Opcode),
    (expand jw p.base).entry f o 0 = composeWith p.sig [.mi, .co] ∧
    (expand jw p.base).entry f o 1 = composeWith p.sig [.ro, .ii, .ce]

/-- R131, for every registry and every base table with constraint B6, so for every admissible one: with Carry = 1 and Zero = 0 the zero-conditional jump's word is 0, and with both
clear every entry is the base table's. -/
def Obligations.PatchesAreIndependent : Prop :=
  ∀ p : TableParameters, p.sig.wellFormed = true → p.b6 = true →
    (expand (composeWith p.sig [.io, .j]) p.base).entry ⟨false, true⟩ 8 2 = 0 ∧
    ∀ o s, (expand (composeWith p.sig [.io, .j]) p.base).entry ⟨false, false⟩ o s = p.base.entry o s

/-- R133: at Zero = 0, Carry = 1 step 2 of opcode 0111 is cw(IO, J) and step 2 of opcode 1000 is 0. -/
def Obligations.ConditionalJumpsAtCarryOnly : Prop :=
  (expand jumpWord base).entry ⟨false, true⟩ 7 2 = cw [.io, .j] ∧
    (expand jumpWord base).entry ⟨false, true⟩ 8 2 = 0

/-- The aliased build is no value of expand (R134; log 20): the aliased table of any registry and base table differs from the
expansion of every base table with constraint B6, so of every admissible one, under any jump word. It differs in an entry
of a flag state whose conditions do not hold. -/
def Obligations.AliasedTableIsNotTheExpansion : Prop :=
  ∀ p q : TableParameters, p.sig.wellFormed = true → q.b6 = true → ∀ jw : CWord,
    (aliasedTable (composeWith p.sig [.io, .j]) p.base).entry ⟨false, false⟩ 7 2 ≠
      (expand jw q.base).entry ⟨false, false⟩ 7 2 ∧
    aliasedTable (composeWith p.sig [.io, .j]) p.base ≠ expand jw q.base

/-- No entry that varies with the flags lies at or after a step of its own microprogram that asserts the flag latch
(R186, the design rule, for the default table: D1 to D3, logs 11 to 13). -/
def Obligations.NoLatchAtOrBeforeAFlagDependentStep : Prop :=
  ∀ (f f' g : FlagState) (o : Opcode) (k j : StepNo),
    resolved f o k ≠ resolved f' o k → j ≤ k → latchesFlags (resolved g o j) = false

/-- Two halves read at different flag states join to the word of either, high half and low, but at step 2 of JC and JZ
(R187, for the default table: D1 to D3, logs 11 to 13). -/
def Obligations.MixedHalvesDifferOnlyAtConditionalJumps : Prop :=
  ∀ (f f' : FlagState) (o : Opcode) (k : StepNo), ¬ ((o = 7 ∨ o = 8) ∧ k = 2) →
    joinHalves (halfOf .high (resolved f o k)) (halfOf .low (resolved f' o k)) = resolved f o k ∧
    joinHalves (halfOf .high (resolved f o k)) (halfOf .low (resolved f' o k)) = resolved f' o k

/-! ### The invariant and the start of a run -/

/-- The start of a run leaves IMG all zero, `a` = 0, TRACE empty, OUTCOME Running and VT not computed (R26, R180: D7, D10,
D15). -/
def Obligations.RunStartsFromTheStatedValues : Prop :=
  (∀ addr, addr < 2048 → memRead addr State.reset = .ok 0) ∧ State.reset.a = 0 ∧ State.reset.trace = [] ∧
    State.reset.outcome = .running ∧ State.reset.vt = none ∧ State.reset.phase = .constants

/-- The invariant of the block holds at the start of a run. -/
def Obligations.InvariantHoldsAtReset : Prop :=
  BlockInv State.reset

/-- Every step keeps the invariant of the block. -/
def Obligations.EveryStepKeepsTheInvariant : Prop :=
  ∀ s t : State, BlockInv s → step s = .next t → BlockInv t

/-- The image keeps its canonical form in every step of every state that has it. -/
def Obligations.EveryStepKeepsTheCanonicalForm : Prop :=
  ∀ s t : State, Memory.wf s.img = true → step s = .next t → Memory.wf t.img = true

/-- A started-again run is at the start: the image, the walk index, the trace, the outcome, the table and the phase are those
of reset, and the invariant holds. What is kept is the output file (R166, R180), and what is the host's, the environment's
or the model's own: the port, the data output and the count of free values (log 23). -/
def Obligations.StartingAgainResetsTheRunAndKeepsTheRest : Prop :=
  ∀ s : State, BlockInv (startAgain s) ∧ (startAgain s).img = State.reset.img ∧
    (startAgain s).a = State.reset.a ∧ (startAgain s).trace = State.reset.trace ∧
    (startAgain s).outcome = State.reset.outcome ∧ (startAgain s).vt = State.reset.vt ∧
    (startAgain s).phase = State.reset.phase ∧
    (startAgain s).file = s.file ∧ (startAgain s).port = s.port ∧ (startAgain s).data = s.data ∧
    (startAgain s).draws = s.draws

/-! ### The generator -/

/-- Each step of a running generator outside the walk and emit completes with its phase's effect and no other, but the
environment's next address (R25, R26, R120, R140). -/
def Obligations.GeneratorPhasesTakeTheirEffect : Prop :=
  ∀ s : State, s.outcome = .running →
    (s.phase = .constants → step s = .next (presentAddress (s.setPhase .expand))) ∧
    (s.phase = .expand →
      step s = .next (presentAddress ((s.setVt (some (expand jumpWord base))).setPhase .zeroFill))) ∧
    (s.phase = .zeroFill →
      step s = .next (presentAddress ((((s.setImg []).setTrace []).setA 0).setPhase .render))) ∧
    (s.phase = .render → 1024 ≤ s.a → step s = .next (presentAddress (s.setPhase .emit)))

/-- One iteration of the walk (R140, R141): at `a` below 1024, with the variant table there, the step writes the selected
half of the entry at the fields of `a`, at `a` and nowhere else, appends the trace of `a`, advances `a` by one, and changes
nothing else but the port. -/
def Obligations.WalkStepWritesTheSelectedHalf : Prop :=
  ∀ (s : State) (v : VariantTable), Memory.wf s.img = true → s.outcome = .running → s.phase = .render → s.a < 1024 →
    s.vt = some v →
    ∃ t, step s = .next t ∧
      (∃ x, decodeAddress s.a = .ok x ∧
        (x.b = .high → Memory.read t.img s.a = hi8 (v.entry x.f x.o x.s)) ∧
        (x.b = .low → Memory.read t.img s.a = lo8 (v.entry x.f x.o x.s)) ∧
        t.trace = s.trace ++ traceItemsOf s.a x (v.entry x.f x.o x.s)) ∧
      (∀ addr, addr ≠ s.a → Memory.read t.img addr = Memory.read s.img addr) ∧
      t.a = s.a + 1 ∧ t.outcome = s.outcome ∧ t.vt = s.vt ∧ t.phase = s.phase ∧ t.file = s.file ∧ t.data = s.data

/-- The trace of one address: a record with the whole control word below step 6, then a blank marker after step 5, and
nothing at steps 6 and 7 (R148; the order of the walk is D7). -/
def Obligations.TraceOfAnAddress : Prop :=
  ∀ (a : Nat) (x : RomFields) (w : CWord),
    (x.s.val < 5 → traceItemsOf a x w = [.record ⟨a, x.f, x.b, x.o, x.s, w⟩]) ∧
    (x.s.val = 5 → traceItemsOf a x w = [.record ⟨a, x.f, x.b, x.o, x.s, w⟩, .blank]) ∧
    (5 < x.s.val → traceItemsOf a x w = [])

/-- After the walk the trace holds 768 records and 128 blank markers (R148). -/
def Obligations.FinishedTraceHas768RecordsAnd128Blanks : Prop :=
  ∀ s : State, BlockInv s → s.phase = .emit →
    (s.trace.filter fun i => decide (i ≠ .blank)).length = 768 ∧
    (s.trace.filter fun i => decide (i = .blank)).length = 128

/-- Emit: stored by the host, the file holds the bytes of IMG in address order, 2048 of them, and OUTCOME is Done; not
stored, OUTCOME is Fault(IOFailure) and nothing is said of the file. IMG and everything else stays (R150, R151, R160; D10). -/
def Obligations.EmitHandsOverTheImage : Prop :=
  ∀ (stored : Bool) (leftover : Option (List Byte)) (s : State),
    (stored = true → (emitWith stored leftover s).outcome = .done ∧
      ∃ bytes, (emitWith stored leftover s).file = some bytes ∧ bytes.length = 2048 ∧
        ∀ i, i < 2048 → bytes[i]? = some (Memory.read s.img i)) ∧
    (stored = false → (emitWith stored leftover s).outcome = .fault .ioFailure ∧
      (emitWith stored leftover s).file = leftover) ∧
    (emitWith stored leftover s).img = s.img ∧ (emitWith stored leftover s).a = s.a ∧
    (emitWith stored leftover s).trace = s.trace ∧ (emitWith stored leftover s).vt = s.vt ∧
    (emitWith stored leftover s).phase = s.phase ∧ (emitWith stored leftover s).data = s.data ∧
    (emitWith stored leftover s).port = s.port ∧ (emitWith stored leftover s).draws = s.draws

/-- The step in the last phase is emit with the host's free answer, and completes whatever that is (R150, R160). -/
def Obligations.LastPhaseStepIsEmit : Prop :=
  ∀ s : State, s.outcome = .running → s.phase = .emit →
    ∃ (stored : Bool) (leftover : Option (List Byte)), step s = .next (presentAddress (emitWith stored leftover s))

/-- A run passes through its phases in order and never returns to an earlier one, OUTCOME leaves Running in the last
phase alone, and in the last phase no step changes the image (R25, R160). -/
def Obligations.PhasesPassOnceInOrder : Prop :=
  ∀ s t : State, step s = .next t →
    ((t.phase = s.phase ∧ (s.phase = .render ∨ s.phase = .emit)) ∨
      (s.phase = .constants ∧ t.phase = .expand) ∨ (s.phase = .expand ∧ t.phase = .zeroFill) ∨
      (s.phase = .zeroFill ∧ t.phase = .render) ∨ (s.phase = .render ∧ t.phase = .emit)) ∧
    (t.outcome ≠ s.outcome → s.outcome = .running ∧ s.phase = .emit) ∧
    (s.phase = .emit → t.img = s.img ∧ t.trace = s.trace ∧ t.a = s.a ∧ t.vt = s.vt)

/-- In every state of a run, in every phase, the bytes 1024 to 2047 are zero (R143); and a byte write is answered exactly
below 1024, where it gives that address the byte and leaves every other address and all the rest of the state as it was
(R36, R143). -/
def Obligations.UpperHalfIsNeverWritten : Prop :=
  (∀ s : State, BlockInv s → ∀ addr, 1024 ≤ addr → addr < 2048 → memRead addr s = .ok 0) ∧
  ∀ (s : State) (addr : Nat) (v : Byte),
    ((∃ t, memWrite addr v s = .ok t) ↔ addr < 1024) ∧
    ∀ t, memWrite addr v s = .ok t → (∃ m, t = s.setImg m) ∧
      (Memory.wf s.img = true → Memory.read t.img addr = v) ∧
      ∀ other, other ≠ addr → Memory.read t.img other = Memory.read s.img other

/-- R145: the finished image is exactly 2048 bytes, and bytes 1024 to 2047 are all zero. -/
def Obligations.ImageHas2048BytesAndAZeroUpperHalf : Prop :=
  ∀ s : State, BlockInv s → s.phase = .emit →
    (imageBytes s.img).length = 2048 ∧ ∀ b, b ∈ (imageBytes s.img).drop 1024 → b = 0

/-- In the last phase the image is the closed form of R144, address by address. -/
def Obligations.FinishedImageHasTheClosedForm : Prop :=
  ∀ s : State, BlockInv s → s.phase = .emit → ∀ a, a < 2048 →
    memRead a s = .ok (
      if a < 1024 then
        if a.testBit 7 = false then
          hi8 (resolved ⟨a.testBit 9, a.testBit 8⟩ (Fin.ofNat 16 (a / 8)) (Fin.ofNat 8 a))
        else lo8 (resolved ⟨a.testBit 9, a.testBit 8⟩ (Fin.ofNat 16 (a / 8)) (Fin.ofNat 8 a))
      else 0)

/-- Any two runs in the last phase have the same image (R46). What may differ between the two is the outcome, the file, the
port, the data output and the count of free values, and with it the host's answers. The walk is ascending in both, so their
traces are the same (D7, log 15), and the images are equal as lists because both are canonical (log 17). -/
def Obligations.FinishedImagesAreIdentical : Prop :=
  ∀ s t : State, BlockInv s → BlockInv t → s.phase = .emit → t.phase = .emit →
    s.img = t.img ∧ imageBytes s.img = imageBytes t.img

/-- From every state of a run that has not ended, at most 1029 steps end it, and the image is then finished (R24, R25,
R195; the unit of a step is log 2). -/
def Obligations.EveryRunEndsWithTheImageFinished : Prop :=
  ∀ s : State, BlockInv s → s.outcome = .running →
    ∃ n t, n ≤ 1029 ∧ Host.Core.run core n s = .next t ∧ t.outcome ≠ .running ∧ BlockInv t ∧ t.phase = .emit

/-- R152: the trace never influences the image or anything else: of two states that agree on all but the trace, a step of
one is matched by a step of the other, and the results agree on all but the trace. -/
def Obligations.TraceNeverInfluencesTheRest : Prop :=
  ∀ s t s' : State, AgreeButTrace s t → step s = .next s' → ∃ t', step t = .next t' ∧ AgreeButTrace s' t'

/-! ### The exception -/

/-- IOFailure is raised by emit alone, and when it is raised the image is complete (R160, R165; D10). -/
def Obligations.OnlyEmitRaisesIOFailure : Prop :=
  ∀ s : State, BlockInv s →
    (∀ t, step s = .next t → ¬ (s.outcome = .running ∧ s.phase = .emit) → t.outcome ≠ .fault .ioFailure) ∧
    (s.outcome = .running → s.phase = .emit → ∀ leftover,
      (emitWith false leftover s).outcome = .fault .ioFailure ∧
      ∀ a, a < 2048 → Memory.read (emitWith false leftover s).img a = imageByte a)

/-- There is no return from the failure: no step leads on from it (R166; that a step then answers the fault of the same name
is log 24). The only way on is to start the generator again, the host's move (log 23), and that run ends with the same
image rebuilt. -/
def Obligations.NoReturnFromTheFailure : Prop :=
  ∀ s : State, BlockInv s → s.outcome = .fault .ioFailure →
    step s = .fault .ioFailure ∧
    ∃ n t, Host.Core.run core n (startAgain s) = .next t ∧ t.outcome ≠ .running ∧ t.img = s.img

/-- Nothing else faults, and nothing is refused (R161): a state of a run has a next state, unless its run has failed. That a
step after the failure is a fault is log 24, and that a step after Done is a read is log 25. -/
def Obligations.NothingElseFaults : Prop :=
  ∀ s : State, BlockInv s →
    (s.outcome ≠ .fault .ioFailure → ∃ t, step s = .next t) ∧
    (∀ r, step s = .fault r → s.outcome = .fault .ioFailure) ∧ ∀ r, step s ≠ .refused r

/-! ### The ROM view -/

/-- A step of a finished block whose port holds the address of an instruction is that instruction's exec, and then the
environment presents its next address (R27, R147; D6, D16, logs 4 and 25). -/
def Obligations.StepRunsThePresentedInstruction : Prop :=
  ∀ (s : State) (i : Instr), s.outcome = .done → decode s.port.toNat = .ok i →
    step s = (match exec i s with
      | .next t => .next { t with port := Config.presentedAddress t.draws, draws := t.draws + 1 }
      | .fault r => .fault r
      | .refused r => .refused r)

/-- A byte read answers below 2048 with the image's byte and is refused elsewhere, and in the last phase every further
step leaves its answer as it is (R35, R39). -/
def Obligations.ByteReadsAnswerAndStayTheSame : Prop :=
  ∀ s : State,
    (∀ a, a < 2048 → memRead a s = .ok (Memory.read s.img a)) ∧
    (∀ a, 2048 ≤ a → memRead a s = .error (.noSuchAddress a)) ∧
    ∀ t, s.phase = .emit → step s = .next t → ∀ a, memRead a t = memRead a s

/-- Every instruction, in every form, completes once render has finished: the data output takes the image's byte at its
address and nothing else changes. Before that it is refused by name (R147). -/
def Obligations.EveryInstructionIsOneByteRead : Prop :=
  ∀ (i : Instr) (s : State),
    (s.phase = .emit → exec i s = .next (s.setData (Memory.read s.img (encode i)))) ∧
    (s.phase ≠ .emit → exec i s = .refused .imageNotFinished)

/-- The frame of every instruction (all eighteen forms): only the data output may change; the image at every address, the
walk index, the trace, the outcome, the table, the phase, the file, the port and the count stay (R147, R36). -/
def Obligations.InstructionsChangeTheDataOutputOnly : Prop :=
  ∀ (i : Instr) (s t : State), exec i s = .next t →
    (∀ addr, Memory.read t.img addr = Memory.read s.img addr) ∧ t.img = s.img ∧ t.a = s.a ∧ t.trace = s.trace ∧
    t.outcome = s.outcome ∧ t.vt = s.vt ∧ t.phase = s.phase ∧ t.file = s.file ∧ t.port = s.port ∧ t.draws = s.draws

/-- In the last phase the state of every run is a finished one, so the statements on finished images apply to it. -/
def Obligations.LastPhaseImageIsFinished : Prop :=
  ∀ s : State, BlockInv s → s.phase = .emit → Finished s

/-- NOP and the five undefined opcodes read the template in every flag state, and so each undefined opcode reads exactly
as NOP does (R62, R100, R109 to R113; D1 to D3). -/
def Obligations.FetchOnlyOpcodesReadTheTemplate : Prop :=
  ∀ s : State, Finished s → ∀ (f : FlagState) (b : ByteSelect) (k : StepNo) (i : Instr),
    i ∈ [.nop f b k, .und9 f b k, .und10 f b k, .und11 f b k, .und12 f b k, .und13 f b k] →
    exec i s = .next (s.setData (halfOf b (Microprogram.word
      ⟨0x4004, 0x1408, 0x0000, 0x0000, 0x0000, 0x0000, 0x0000, 0x0000⟩ k)))

/-- LDA, STA and LDI read the words of R101, R104 and R105 in every flag state (D1 to D3). -/
def Obligations.LoadsAndStoresReadTheirMicroprograms : Prop :=
  ∀ s : State, Finished s → ∀ (f : FlagState) (b : ByteSelect) (k : StepNo),
    exec (.lda f b k) s = .next (s.setData (halfOf b (Microprogram.word
      ⟨0x4004, 0x1408, 0x4800, 0x1200, 0x0000, 0x0000, 0x0000, 0x0000⟩ k))) ∧
    exec (.sta f b k) s = .next (s.setData (halfOf b (Microprogram.word
      ⟨0x4004, 0x1408, 0x4800, 0x2100, 0x0000, 0x0000, 0x0000, 0x0000⟩ k))) ∧
    exec (.ldi f b k) s = .next (s.setData (halfOf b (Microprogram.word
      ⟨0x4004, 0x1408, 0x0A00, 0x0000, 0x0000, 0x0000, 0x0000, 0x0000⟩ k)))

/-- ADD and SUB read the words of R102 and R103 in every flag state, the flag latch asserted at step 4 and only there (D1
to D3). -/
def Obligations.ArithmeticOpcodesReadTheirMicroprograms : Prop :=
  ∀ s : State, Finished s → ∀ (f : FlagState) (b : ByteSelect) (k : StepNo),
    exec (.add f b k) s = .next (s.setData (halfOf b (Microprogram.word
      ⟨0x4004, 0x1408, 0x4800, 0x1020, 0x0281, 0x0000, 0x0000, 0x0000⟩ k))) ∧
    exec (.sub f b k) s = .next (s.setData (halfOf b (Microprogram.word
      ⟨0x4004, 0x1408, 0x4800, 0x1020, 0x02C1, 0x0000, 0x0000, 0x0000⟩ k))) ∧
    (latchesFlags (controlWordAt s.img f 2 k) = true ↔ k = 4) ∧
    (latchesFlags (controlWordAt s.img f 3 k) = true ↔ k = 4)

/-- JMP reads the jump word at step 2 in every flag state; JC reads as JMP with Carry = 1 and as NOP with Carry = 0,
whatever Zero is; JZ reads as JMP with Zero = 1 and as NOP with Zero = 0, whatever Carry is (R106, R128, R129; D1 to D3). -/
def Obligations.JumpsReadTheirResolvedMicroprograms : Prop :=
  ∀ s : State, Finished s → ∀ (f : FlagState) (flag : Bool) (b : ByteSelect) (k : StepNo),
    exec (.jmp f b k) s = .next (s.setData (halfOf b (Microprogram.word
      ⟨0x4004, 0x1408, 0x0802, 0x0000, 0x0000, 0x0000, 0x0000, 0x0000⟩ k))) ∧
    exec (.jcTaken flag b k) s = .next (s.setData (halfOf b (Microprogram.word
      ⟨0x4004, 0x1408, 0x0802, 0x0000, 0x0000, 0x0000, 0x0000, 0x0000⟩ k))) ∧
    exec (.jcNotTaken flag b k) s = .next (s.setData (halfOf b (Microprogram.word
      ⟨0x4004, 0x1408, 0x0000, 0x0000, 0x0000, 0x0000, 0x0000, 0x0000⟩ k))) ∧
    exec (.jzTaken flag b k) s = .next (s.setData (halfOf b (Microprogram.word
      ⟨0x4004, 0x1408, 0x0802, 0x0000, 0x0000, 0x0000, 0x0000, 0x0000⟩ k))) ∧
    exec (.jzNotTaken flag b k) s = .next (s.setData (halfOf b (Microprogram.word
      ⟨0x4004, 0x1408, 0x0000, 0x0000, 0x0000, 0x0000, 0x0000, 0x0000⟩ k)))

/-- OUT and HLT read the words of R114 and R115 in every flag state, and after a read of HLT's words the block answers
the next read as before (R114, R115; D1 to D3). -/
def Obligations.OutputAndHaltReadTheirMicroprograms : Prop :=
  ∀ s : State, Finished s → ∀ (f : FlagState) (b : ByteSelect) (k : StepNo),
    exec (.out f b k) s = .next (s.setData (halfOf b (Microprogram.word
      ⟨0x4004, 0x1408, 0x0110, 0x0000, 0x0000, 0x0000, 0x0000, 0x0000⟩ k))) ∧
    exec (.hlt f b k) s = .next (s.setData (halfOf b (Microprogram.word
      ⟨0x4004, 0x1408, 0x8000, 0x0000, 0x0000, 0x0000, 0x0000, 0x0000⟩ k))) ∧
    ∀ t, exec (.hlt f b k) s = .next t → Finished t

/-- A step of a finished block (R55, R144, R147; that a step after Done is a read is log 25): the port answers every one of
its 2048 addresses with the byte of the closed form, the upper half with zero, nothing else changes but the next address,
and the block stays finished and Done. -/
def Obligations.PortAnswersEveryAddress : Prop :=
  ∀ s : State, Finished s → s.outcome = .done →
    ∃ t, step s = .next t ∧ t = presentAddress (s.setData (imageByte s.port.toNat)) ∧
      Finished t ∧ t.outcome = .done ∧ (1024 ≤ s.port.toNat → t.data = 0)

/-- Two reads 128 addresses apart give back the control word of the variant table, for all 512 triples (R34, R149). -/
def Obligations.ControlWordIsTwoReads128Apart : Prop :=
  ∀ s : State, Finished s → ∀ (f : FlagState) (o : Opcode) (k : StepNo),
    controlWordAt s.img f o k = (expand jumpWord base).entry f o k ∧
    encodeFields ⟨f, .low, o, k⟩ = encodeFields ⟨f, .high, o, k⟩ + 128

/-- Reading one instruction with any flag states at its eight steps gives its base microprogram, but for the conditional
jumps, which depend on the flag state at step 2 alone and then read as JMP (R156). -/
def Obligations.InstructionReadsDependOnFlagsAtStepTwoOnly : Prop :=
  ∀ s : State, Finished s → ∀ (fs : StepNo → FlagState) (o : Opcode),
    readInstruction s.img fs o =
      if (o = 7 ∧ (fs 2).carry = true) ∨ (o = 8 ∧ (fs 2).zero = true) then microJmp else base.row o

/-- The four flag blocks are equal byte for byte except at the four offsets of step 2 of JC and JZ, where each block's
bytes depend on its own flag alone (R146; D1, D5). -/
def Obligations.FlagBlocksDifferAtFourOffsetsOnly : Prop :=
  ∀ (f : FlagState) (k : Nat), k < 256 →
    (k ≠ 0x3A → k ≠ 0xBA → k ≠ 0x42 → k ≠ 0xC2 → imageByte (256 * f.number + k) = imageByte k) ∧
    (k = 0x3A → imageByte (256 * f.number + k) = if f.carry then 0x08 else 0x00) ∧
    (k = 0xBA → imageByte (256 * f.number + k) = if f.carry then 0x02 else 0x00) ∧
    (k = 0x42 → imageByte (256 * f.number + k) = if f.zero then 0x08 else 0x00) ∧
    (k = 0xC2 → imageByte (256 * f.number + k) = if f.zero then 0x02 else 0x00)

/-- The finished image has 344 non-zero bytes, all below address 1024, and the sum of its bytes is 9888 (R155; D1 to D3). -/
def Obligations.FinishedImageFigures : Prop :=
  ∀ s : State, BlockInv s → s.phase = .emit →
    s.img.length = 344 ∧ (s.img.map fun c => c.2.toNat).sum = 9888 ∧ ∀ c, c ∈ s.img → c.1 < 1024 ∧ c.2 ≠ 0
end

