-- ==== Sys2Proof/Laws/Address.lean ====
section
/-! SUPPORT. Laws/Address.lean: the address fields as numbers, and the range of an encoded address. -/

namespace Sys2Proof

theorem FlagState.number_lt (f : FlagState) : f.number < 4 := by
  rcases f with ⟨_ | _, _ | _⟩ <;> decide

@[simp] theorem FlagState.ofNumber_number (f : FlagState) : FlagState.ofNumber f.number = f := by
  rcases f with ⟨_ | _, _ | _⟩ <;> rfl

theorem ByteSelect.number_lt (b : ByteSelect) : b.number < 2 := by
  cases b <;> decide

@[simp] theorem ByteSelect.ofNumber_number (b : ByteSelect) : ByteSelect.ofNumber b.number = b := by
  cases b <;> rfl

/-- The numbers of any fields are in the ranges of R53. -/
theorem RomFields.inRange (x : RomFields) : fieldsInRange x.f.number x.b.number x.o.val x.s.val = true := by
  simp [fieldsInRange, x.f.number_lt, x.b.number_lt, x.o.isLt, x.s.isLt]

/-- An encoded address lies in the decode domain (R53). -/
theorem encodeFields_lt (x : RomFields) : encodeFields x < Config.decodeSize := by
  have hf := x.f.number_lt
  have hb := x.b.number_lt
  have ho := x.o.isLt
  have hs := x.s.isLt
  simp only [encodeFields, encodeNumbers, Config.decodeSize]
  simp only [Nat.shiftLeft_eq]
  refine Nat.or_lt_two_pow (n := 10) (Nat.or_lt_two_pow (Nat.or_lt_two_pow ?_ ?_) ?_) ?_ <;> omega

theorem encode_lt (i : Instr) : encode i < Config.decodeSize := encodeFields_lt _

end Sys2Proof
end

