-- ==== Sys2Proof/Laws/Memory.lean ====
section
/-! SUPPORT. Laws/Memory.lean: the laws of the image memory: a read after a write, and the canonical form that every write
keeps and that makes equal images equal lists. -/

namespace Sys2Proof.Machine

@[simp] theorem Memory.read_nil (a : Nat) : Memory.read [] a = unlistedByte := rfl

@[simp] theorem Memory.wf_nil : Memory.wf [] = true := rfl

theorem Memory.wfFrom_cons {low : Nat} {c : Host.Cell} {m : Memory} :
    Memory.wfFrom low (c :: m) = true ↔
      low ≤ c.1 ∧ c.1 < Config.imageSize ∧ c.2 ≠ unlistedByte ∧ Memory.wfFrom (c.1 + 1) m = true := by
  simp [Memory.wfFrom, and_assoc]

theorem Memory.wfFrom_mono {low low' : Nat} {m : Memory} (h : low' ≤ low) (hm : Memory.wfFrom low m = true) :
    Memory.wfFrom low' m = true := by
  cases m with
  | nil => rfl
  | cons c m => rw [Memory.wfFrom_cons] at *; exact ⟨h.trans hm.1, hm.2⟩

/-- Below its first address a memory in canonical form lists nothing. -/
theorem Memory.read_below {low : Nat} {m : Memory} (hm : Memory.wfFrom low m = true) {a : Nat} (h : a < low) :
    Memory.read m a = unlistedByte := by
  induction m generalizing low with
  | nil => rfl
  | cons c m ih =>
    obtain ⟨h1, -, -, h4⟩ := Memory.wfFrom_cons.mp hm
    rw [Memory.read, if_neg (by omega)]
    exact ih h4 (by omega)

/-- A read at the address just written gives the byte written, in a memory in canonical form. -/
theorem Memory.read_write_same {low : Nat} {m : Memory} (hm : Memory.wfFrom low m = true) (a : Nat) (v : Byte) :
    Memory.read (Memory.write m a v) a = v := by
  induction m generalizing low with
  | nil => by_cases h : v = unlistedByte <;> simp [Memory.write, Memory.read, h]
  | cons c m ih =>
    obtain ⟨h1, -, -, h4⟩ := Memory.wfFrom_cons.mp hm
    rw [Memory.write]
    split
    · rename_i hlt
      split
      · rename_i hv
        rw [hv, Memory.read, if_neg (by omega), Memory.read_below h4 (by omega)]
      · simp [Memory.read]
    · split
      · split
        · rename_i _ he hv
          rw [hv, Memory.read_below h4 (by omega)]
        · simp [Memory.read]
      · rename_i h2 h3
        rw [Memory.read, if_neg (by omega)]
        exact ih h4

/-- A write leaves every other address as it was. -/
theorem Memory.read_write_other (m : Memory) {a a' : Nat} (v : Byte) (h : a' ≠ a) :
    Memory.read (Memory.write m a v) a' = Memory.read m a' := by
  induction m with
  | nil =>
    rw [Memory.write]; split
    · rfl
    · simp [Memory.read, h.symm]
  | cons c m ih =>
    rw [Memory.write]
    split
    · split
      · rfl
      · simp [Memory.read, h.symm]
    · split
      · rename_i he
        have hc : ¬ c.1 = a' := by omega
        split
        · simp [Memory.read, hc]
        · simp [Memory.read, hc, h.symm]
      · simp only [Memory.read, ih]

theorem Memory.wfFrom_write {low : Nat} {m : Memory} (hm : Memory.wfFrom low m = true) {a : Nat} (v : Byte)
    (hl : low ≤ a) (ha : a < Config.imageSize) : Memory.wfFrom low (Memory.write m a v) = true := by
  induction m generalizing low with
  | nil =>
    rw [Memory.write]; split
    · rfl
    · rename_i hv; exact Memory.wfFrom_cons.mpr ⟨hl, ha, hv, rfl⟩
  | cons c m ih =>
    obtain ⟨h1, h2, h3, h4⟩ := Memory.wfFrom_cons.mp hm
    rw [Memory.write]
    split
    · rename_i hlt
      split
      · exact hm
      · rename_i hv
        exact Memory.wfFrom_cons.mpr ⟨hl, ha, hv, Memory.wfFrom_cons.mpr ⟨hlt, h2, h3, h4⟩⟩
    · split
      · rename_i he
        split
        · exact Memory.wfFrom_mono (by omega) h4
        · rename_i hv
          exact Memory.wfFrom_cons.mpr ⟨hl, ha, hv, he ▸ h4⟩
      · exact Memory.wfFrom_cons.mpr ⟨h1, h2, h3, ih h4 (by omega)⟩

/-- Every write inside the image keeps the canonical form. -/
theorem Memory.wf_write {m : Memory} (hm : Memory.wf m = true) {a : Nat} (v : Byte) (ha : a < Config.imageSize) :
    Memory.wf (Memory.write m a v) = true :=
  Memory.wfFrom_write hm v (Nat.zero_le a) ha

/-- Above the image a memory in canonical form lists nothing. -/
theorem Memory.read_above {low : Nat} {m : Memory} (hm : Memory.wfFrom low m = true) {a : Nat}
    (h : Config.imageSize ≤ a) : Memory.read m a = unlistedByte := by
  induction m generalizing low with
  | nil => rfl
  | cons c m ih =>
    obtain ⟨-, h2, -, h4⟩ := Memory.wfFrom_cons.mp hm
    rw [Memory.read, if_neg (by omega)]
    exact ih h4

theorem Memory.eq_of_read_from {low : Nat} {m m' : Memory} (hm : Memory.wfFrom low m = true)
    (hm' : Memory.wfFrom low m' = true) (h : ∀ a, Memory.read m a = Memory.read m' a) : m = m' := by
  induction m generalizing low m' with
  | nil =>
    cases m' with
    | nil => rfl
    | cons c' m' =>
      obtain ⟨-, -, h3, -⟩ := Memory.wfFrom_cons.mp hm'
      exact absurd (by simpa [Memory.read] using (h c'.1).symm) h3
  | cons c m ih =>
    obtain ⟨h1, -, h3, h4⟩ := Memory.wfFrom_cons.mp hm
    cases m' with
    | nil => exact absurd (by simpa [Memory.read] using h c.1) h3
    | cons c' m' =>
      obtain ⟨h1', -, h3', h4'⟩ := Memory.wfFrom_cons.mp hm'
      have e1 : c.1 = c'.1 := by
        rcases Nat.lt_trichotomy c.1 c'.1 with hlt | he | hgt
        · have := h c.1
          simp only [Memory.read, if_true] at this
          rw [if_neg (by omega), Memory.read_below h4' (by omega)] at this
          exact absurd this h3
        · exact he
        · have := h c'.1
          simp only [Memory.read, if_true] at this
          rw [if_neg (by omega), Memory.read_below h4 (by omega)] at this
          exact absurd this.symm h3'
      have e2 : c.2 = c'.2 := by simpa [Memory.read, e1] using h c.1
      have ec : c = c' := Prod.ext e1 e2
      subst ec
      congr 1
      refine ih h4 h4' fun a => ?_
      by_cases ha : c.1 = a
      · rw [Memory.read_below h4 (by omega), Memory.read_below h4' (by omega)]
      · simpa [Memory.read, ha] using h a

/-- Memories in canonical form that read the same are the same list. -/
theorem Memory.eq_of_read {m m' : Memory} (hm : Memory.wf m = true) (hm' : Memory.wf m' = true)
    (h : ∀ a, Memory.read m a = Memory.read m' a) : m = m' :=
  Memory.eq_of_read_from hm hm' h

/-- The memory of a byte function over an interval of addresses: what `finishedImage` is made of. -/
theorem Memory.wfFrom_filterMap (g : Nat → Byte) (low n : Nat) (h : low + n ≤ Config.imageSize) :
    Memory.wfFrom low
      ((List.range' low n).filterMap fun a => if g a = unlistedByte then none else some (a, g a)) = true := by
  induction n generalizing low with
  | zero => rfl
  | succ n ih =>
    rw [List.range'_succ, List.filterMap_cons]
    by_cases hg : g low = unlistedByte
    · simpa [hg] using Memory.wfFrom_mono (Nat.le_succ low) (ih (low + 1) (by omega))
    · simpa [hg] using Memory.wfFrom_cons.mpr ⟨le_refl low, by omega, hg, ih (low + 1) (by omega)⟩

theorem Memory.read_filterMap (g : Nat → Byte) (low n a : Nat) :
    Memory.read ((List.range' low n).filterMap fun a => if g a = unlistedByte then none else some (a, g a)) a =
      if low ≤ a ∧ a < low + n then g a else unlistedByte := by
  induction n generalizing low with
  | zero => simp [show ¬ (low ≤ a ∧ a < low) by omega]
  | succ n ih =>
    rw [List.range'_succ, List.filterMap_cons]
    by_cases ha : low = a
    · subst ha
      by_cases hg : g low = unlistedByte
      · simp [hg, ih]
      · simp [hg, Memory.read]
    · have e : (low + 1 ≤ a ∧ a < low + 1 + n) ↔ (low ≤ a ∧ a < low + (n + 1)) := by omega
      by_cases hg : g low = unlistedByte
      · simp only [hg, if_true, ih, e]
      · simp only [hg, if_false, Memory.read, ha, ih, e]

end Sys2Proof.Machine
end

