-- ==== Sys2Proof/Laws/State.lean ====
section
/-! SUPPORT. Laws/State.lean: one lemma for each field after each update. -/

namespace Sys2Proof.Machine

variable (s : State)

@[simp] theorem setImg_img (x : Memory) : (s.setImg x).img = x := rfl
@[simp] theorem setImg_a (x : Memory) : (s.setImg x).a = s.a := rfl
@[simp] theorem setImg_trace (x : Memory) : (s.setImg x).trace = s.trace := rfl
@[simp] theorem setImg_outcome (x : Memory) : (s.setImg x).outcome = s.outcome := rfl
@[simp] theorem setImg_vt (x : Memory) : (s.setImg x).vt = s.vt := rfl
@[simp] theorem setImg_phase (x : Memory) : (s.setImg x).phase = s.phase := rfl
@[simp] theorem setImg_file (x : Memory) : (s.setImg x).file = s.file := rfl
@[simp] theorem setImg_port (x : Memory) : (s.setImg x).port = s.port := rfl
@[simp] theorem setImg_data (x : Memory) : (s.setImg x).data = s.data := rfl
@[simp] theorem setImg_draws (x : Memory) : (s.setImg x).draws = s.draws := rfl

@[simp] theorem setA_img (x : Nat) : (s.setA x).img = s.img := rfl
@[simp] theorem setA_a (x : Nat) : (s.setA x).a = x := rfl
@[simp] theorem setA_trace (x : Nat) : (s.setA x).trace = s.trace := rfl
@[simp] theorem setA_outcome (x : Nat) : (s.setA x).outcome = s.outcome := rfl
@[simp] theorem setA_vt (x : Nat) : (s.setA x).vt = s.vt := rfl
@[simp] theorem setA_phase (x : Nat) : (s.setA x).phase = s.phase := rfl
@[simp] theorem setA_file (x : Nat) : (s.setA x).file = s.file := rfl
@[simp] theorem setA_port (x : Nat) : (s.setA x).port = s.port := rfl
@[simp] theorem setA_data (x : Nat) : (s.setA x).data = s.data := rfl
@[simp] theorem setA_draws (x : Nat) : (s.setA x).draws = s.draws := rfl

@[simp] theorem setTrace_img (x : List TraceItem) : (s.setTrace x).img = s.img := rfl
@[simp] theorem setTrace_a (x : List TraceItem) : (s.setTrace x).a = s.a := rfl
@[simp] theorem setTrace_trace (x : List TraceItem) : (s.setTrace x).trace = x := rfl
@[simp] theorem setTrace_outcome (x : List TraceItem) : (s.setTrace x).outcome = s.outcome := rfl
@[simp] theorem setTrace_vt (x : List TraceItem) : (s.setTrace x).vt = s.vt := rfl
@[simp] theorem setTrace_phase (x : List TraceItem) : (s.setTrace x).phase = s.phase := rfl
@[simp] theorem setTrace_file (x : List TraceItem) : (s.setTrace x).file = s.file := rfl
@[simp] theorem setTrace_port (x : List TraceItem) : (s.setTrace x).port = s.port := rfl
@[simp] theorem setTrace_data (x : List TraceItem) : (s.setTrace x).data = s.data := rfl
@[simp] theorem setTrace_draws (x : List TraceItem) : (s.setTrace x).draws = s.draws := rfl

@[simp] theorem setOutcome_img (x : RunOutcome) : (s.setOutcome x).img = s.img := rfl
@[simp] theorem setOutcome_a (x : RunOutcome) : (s.setOutcome x).a = s.a := rfl
@[simp] theorem setOutcome_trace (x : RunOutcome) : (s.setOutcome x).trace = s.trace := rfl
@[simp] theorem setOutcome_outcome (x : RunOutcome) : (s.setOutcome x).outcome = x := rfl
@[simp] theorem setOutcome_vt (x : RunOutcome) : (s.setOutcome x).vt = s.vt := rfl
@[simp] theorem setOutcome_phase (x : RunOutcome) : (s.setOutcome x).phase = s.phase := rfl
@[simp] theorem setOutcome_file (x : RunOutcome) : (s.setOutcome x).file = s.file := rfl
@[simp] theorem setOutcome_port (x : RunOutcome) : (s.setOutcome x).port = s.port := rfl
@[simp] theorem setOutcome_data (x : RunOutcome) : (s.setOutcome x).data = s.data := rfl
@[simp] theorem setOutcome_draws (x : RunOutcome) : (s.setOutcome x).draws = s.draws := rfl

@[simp] theorem setVt_img (x : Option VariantTable) : (s.setVt x).img = s.img := rfl
@[simp] theorem setVt_a (x : Option VariantTable) : (s.setVt x).a = s.a := rfl
@[simp] theorem setVt_trace (x : Option VariantTable) : (s.setVt x).trace = s.trace := rfl
@[simp] theorem setVt_outcome (x : Option VariantTable) : (s.setVt x).outcome = s.outcome := rfl
@[simp] theorem setVt_vt (x : Option VariantTable) : (s.setVt x).vt = x := rfl
@[simp] theorem setVt_phase (x : Option VariantTable) : (s.setVt x).phase = s.phase := rfl
@[simp] theorem setVt_file (x : Option VariantTable) : (s.setVt x).file = s.file := rfl
@[simp] theorem setVt_port (x : Option VariantTable) : (s.setVt x).port = s.port := rfl
@[simp] theorem setVt_data (x : Option VariantTable) : (s.setVt x).data = s.data := rfl
@[simp] theorem setVt_draws (x : Option VariantTable) : (s.setVt x).draws = s.draws := rfl

@[simp] theorem setPhase_img (x : Phase) : (s.setPhase x).img = s.img := rfl
@[simp] theorem setPhase_a (x : Phase) : (s.setPhase x).a = s.a := rfl
@[simp] theorem setPhase_trace (x : Phase) : (s.setPhase x).trace = s.trace := rfl
@[simp] theorem setPhase_outcome (x : Phase) : (s.setPhase x).outcome = s.outcome := rfl
@[simp] theorem setPhase_vt (x : Phase) : (s.setPhase x).vt = s.vt := rfl
@[simp] theorem setPhase_phase (x : Phase) : (s.setPhase x).phase = x := rfl
@[simp] theorem setPhase_file (x : Phase) : (s.setPhase x).file = s.file := rfl
@[simp] theorem setPhase_port (x : Phase) : (s.setPhase x).port = s.port := rfl
@[simp] theorem setPhase_data (x : Phase) : (s.setPhase x).data = s.data := rfl
@[simp] theorem setPhase_draws (x : Phase) : (s.setPhase x).draws = s.draws := rfl

@[simp] theorem setFile_img (x : Option (List Byte)) : (s.setFile x).img = s.img := rfl
@[simp] theorem setFile_a (x : Option (List Byte)) : (s.setFile x).a = s.a := rfl
@[simp] theorem setFile_trace (x : Option (List Byte)) : (s.setFile x).trace = s.trace := rfl
@[simp] theorem setFile_outcome (x : Option (List Byte)) : (s.setFile x).outcome = s.outcome := rfl
@[simp] theorem setFile_vt (x : Option (List Byte)) : (s.setFile x).vt = s.vt := rfl
@[simp] theorem setFile_phase (x : Option (List Byte)) : (s.setFile x).phase = s.phase := rfl
@[simp] theorem setFile_file (x : Option (List Byte)) : (s.setFile x).file = x := rfl
@[simp] theorem setFile_port (x : Option (List Byte)) : (s.setFile x).port = s.port := rfl
@[simp] theorem setFile_data (x : Option (List Byte)) : (s.setFile x).data = s.data := rfl
@[simp] theorem setFile_draws (x : Option (List Byte)) : (s.setFile x).draws = s.draws := rfl

@[simp] theorem setPort_img (x : BitVec 11) : (s.setPort x).img = s.img := rfl
@[simp] theorem setPort_a (x : BitVec 11) : (s.setPort x).a = s.a := rfl
@[simp] theorem setPort_trace (x : BitVec 11) : (s.setPort x).trace = s.trace := rfl
@[simp] theorem setPort_outcome (x : BitVec 11) : (s.setPort x).outcome = s.outcome := rfl
@[simp] theorem setPort_vt (x : BitVec 11) : (s.setPort x).vt = s.vt := rfl
@[simp] theorem setPort_phase (x : BitVec 11) : (s.setPort x).phase = s.phase := rfl
@[simp] theorem setPort_file (x : BitVec 11) : (s.setPort x).file = s.file := rfl
@[simp] theorem setPort_port (x : BitVec 11) : (s.setPort x).port = x := rfl
@[simp] theorem setPort_data (x : BitVec 11) : (s.setPort x).data = s.data := rfl
@[simp] theorem setPort_draws (x : BitVec 11) : (s.setPort x).draws = s.draws := rfl

@[simp] theorem setData_img (x : Byte) : (s.setData x).img = s.img := rfl
@[simp] theorem setData_a (x : Byte) : (s.setData x).a = s.a := rfl
@[simp] theorem setData_trace (x : Byte) : (s.setData x).trace = s.trace := rfl
@[simp] theorem setData_outcome (x : Byte) : (s.setData x).outcome = s.outcome := rfl
@[simp] theorem setData_vt (x : Byte) : (s.setData x).vt = s.vt := rfl
@[simp] theorem setData_phase (x : Byte) : (s.setData x).phase = s.phase := rfl
@[simp] theorem setData_file (x : Byte) : (s.setData x).file = s.file := rfl
@[simp] theorem setData_port (x : Byte) : (s.setData x).port = s.port := rfl
@[simp] theorem setData_data (x : Byte) : (s.setData x).data = x := rfl
@[simp] theorem setData_draws (x : Byte) : (s.setData x).draws = s.draws := rfl

@[simp] theorem setDraws_img (x : Nat) : (s.setDraws x).img = s.img := rfl
@[simp] theorem setDraws_a (x : Nat) : (s.setDraws x).a = s.a := rfl
@[simp] theorem setDraws_trace (x : Nat) : (s.setDraws x).trace = s.trace := rfl
@[simp] theorem setDraws_outcome (x : Nat) : (s.setDraws x).outcome = s.outcome := rfl
@[simp] theorem setDraws_vt (x : Nat) : (s.setDraws x).vt = s.vt := rfl
@[simp] theorem setDraws_phase (x : Nat) : (s.setDraws x).phase = s.phase := rfl
@[simp] theorem setDraws_file (x : Nat) : (s.setDraws x).file = s.file := rfl
@[simp] theorem setDraws_port (x : Nat) : (s.setDraws x).port = s.port := rfl
@[simp] theorem setDraws_data (x : Nat) : (s.setDraws x).data = s.data := rfl
@[simp] theorem setDraws_draws (x : Nat) : (s.setDraws x).draws = x := rfl

@[simp] theorem presentAddress_img : (presentAddress s).img = s.img := rfl
@[simp] theorem presentAddress_a : (presentAddress s).a = s.a := rfl
@[simp] theorem presentAddress_trace : (presentAddress s).trace = s.trace := rfl
@[simp] theorem presentAddress_outcome : (presentAddress s).outcome = s.outcome := rfl
@[simp] theorem presentAddress_vt : (presentAddress s).vt = s.vt := rfl
@[simp] theorem presentAddress_phase : (presentAddress s).phase = s.phase := rfl
@[simp] theorem presentAddress_file : (presentAddress s).file = s.file := rfl
@[simp] theorem presentAddress_port : (presentAddress s).port = Config.presentedAddress s.draws := rfl
@[simp] theorem presentAddress_data : (presentAddress s).data = s.data := rfl
@[simp] theorem presentAddress_draws : (presentAddress s).draws = s.draws + 1 := rfl

@[simp] theorem raiseException_img (e : BlockException) : (raiseException e s).img = s.img := rfl
@[simp] theorem raiseException_a (e : BlockException) : (raiseException e s).a = s.a := rfl
@[simp] theorem raiseException_trace (e : BlockException) : (raiseException e s).trace = s.trace := rfl
@[simp] theorem raiseException_outcome (e : BlockException) : (raiseException e s).outcome = .fault e := rfl
@[simp] theorem raiseException_vt (e : BlockException) : (raiseException e s).vt = s.vt := rfl
@[simp] theorem raiseException_phase (e : BlockException) : (raiseException e s).phase = s.phase := rfl
@[simp] theorem raiseException_file (e : BlockException) : (raiseException e s).file = s.file := rfl
@[simp] theorem raiseException_port (e : BlockException) : (raiseException e s).port = s.port := rfl
@[simp] theorem raiseException_data (e : BlockException) : (raiseException e s).data = s.data := rfl
@[simp] theorem raiseException_draws (e : BlockException) : (raiseException e s).draws = s.draws := rfl

/-- Two states with the same fields are the same state. -/
@[ext] theorem State.ext_fields {s t : State} (h1 : s.img = t.img) (h2 : s.a = t.a) (h3 : s.trace = t.trace)
    (h4 : s.outcome = t.outcome) (h5 : s.vt = t.vt) (h6 : s.phase = t.phase) (h7 : s.file = t.file)
    (h8 : s.port = t.port) (h9 : s.data = t.data) (h10 : s.draws = t.draws) : s = t := by
  cases s; cases t; simp_all

end Sys2Proof.Machine
end

