-- ==== Sys2Proof/Laws/Ops.lean ====
section
/-! SUPPORT. Laws/Ops.lean: what each shared operation can do, said once. -/

namespace Sys2Proof.Machine

/-- A byte read answers exactly below 2048 (R35, R39). -/
theorem memRead_eq_ok {addr : Nat} {s : State} {v : Byte} :
    memRead addr s = .ok v ↔ addr < Config.imageSize ∧ v = Memory.read s.img addr := by
  unfold memRead
  split <;> simp_all [eq_comm]

/-- A byte write answers exactly below 1024, and changes the image alone (R36). -/
theorem memWrite_eq_ok {addr : Nat} {v : Byte} {s t : State} :
    memWrite addr v s = .ok t ↔ addr < Config.decodeSize ∧ t = s.setImg (Memory.write s.img addr v) := by
  unfold memWrite
  split
  · simp_all [eq_comm]
  · split <;> simp_all

/-- A ROM read gives a next state exactly when render has finished and the address exists, and then only the data output
changes (R147). -/
theorem romRead_eq_next {addr : Nat} {s t : State} :
    romRead addr s = .next t ↔
      s.phase = .emit ∧ addr < Config.imageSize ∧ t = s.setData (Memory.read s.img addr) := by
  by_cases hp : s.phase = .emit <;> by_cases ha : addr < Config.imageSize <;>
    simp [romRead, renderFinished, memRead, hp, ha, eq_comm]

/-- A ROM read never faults (R162). -/
theorem romRead_ne_fault (addr : Nat) (s : State) (r : Fault) : romRead addr s ≠ .fault r := by
  unfold romRead
  split
  · split <;> simp
  · simp

/-- Every instruction is the ROM read at its address (R147; 95_test_vectors.md §4). -/
theorem exec_eq_romRead (i : Instr) (s : State) : exec i s = romRead (encode i) s := by
  cases i <;> rfl

/-- An instruction gives a next state exactly when render has finished. -/
theorem exec_eq_next {i : Instr} {s t : State} :
    exec i s = .next t ↔ s.phase = .emit ∧ t = s.setData (Memory.read s.img (encode i)) := by
  have h := encode_lt i
  simp only [Config.decodeSize] at h
  rw [exec_eq_romRead, romRead_eq_next, Config.imageSize]
  constructor
  · exact fun ⟨h1, _, h3⟩ => ⟨h1, h3⟩
  · exact fun ⟨h1, h3⟩ => ⟨h1, by omega, h3⟩

/-- Emit with the bytes stored: the file holds the image, OUTCOME is Done, nothing else changes (R150). -/
theorem emitWith_stored (leftover : Option (List Byte)) (s : State) :
    emitWith true leftover s = (s.setFile (some (imageBytes s.img))).setOutcome .done := rfl

/-- Emit with the bytes not stored: IOFailure is raised, the file is whatever is left (R150, R160). -/
theorem emitWith_failed (leftover : Option (List Byte)) (s : State) :
    emitWith false leftover s = raiseException .ioFailure (s.setFile leftover) := rfl

/-- Emit changes OUTCOME and the file alone, whatever the host answers. -/
theorem emitWith_cases (stored : Bool) (leftover : Option (List Byte)) (s : State) :
    emitWith stored leftover s = (s.setFile (some (imageBytes s.img))).setOutcome .done ∨
      emitWith stored leftover s = (s.setFile leftover).setOutcome (.fault .ioFailure) := by
  cases stored
  · exact .inr rfl
  · exact .inl rfl

end Sys2Proof.Machine
end

