-- ==== Sys2Proof/Laws/PerInstr.lean ====
section
/-! SUPPORT. Laws/PerInstr.lean: the statements about every instruction as syntax, a lemma for each constructor. -/

namespace Sys2Proof.Laws.RowAgreement

/-- The instruction's address matches its own row of the opcode table, and that row is in the table (R61). -/
def Statement (i : Instr) : Prop := (rowOfInstr i).covers (encode i) = true ∧ rowOfInstr i ∈ opcodeRows

theorem nop (f : FlagState) (b : ByteSelect) (k : StepNo) : Statement (.nop f b k) := by
  refine ⟨?_, by simp only [rowOfInstr]; decide⟩
  rcases f with ⟨_ | _, _ | _⟩ <;> cases b <;> revert k <;> decide

theorem lda (f : FlagState) (b : ByteSelect) (k : StepNo) : Statement (.lda f b k) := by
  refine ⟨?_, by simp only [rowOfInstr]; decide⟩
  rcases f with ⟨_ | _, _ | _⟩ <;> cases b <;> revert k <;> decide

theorem add (f : FlagState) (b : ByteSelect) (k : StepNo) : Statement (.add f b k) := by
  refine ⟨?_, by simp only [rowOfInstr]; decide⟩
  rcases f with ⟨_ | _, _ | _⟩ <;> cases b <;> revert k <;> decide

theorem sub (f : FlagState) (b : ByteSelect) (k : StepNo) : Statement (.sub f b k) := by
  refine ⟨?_, by simp only [rowOfInstr]; decide⟩
  rcases f with ⟨_ | _, _ | _⟩ <;> cases b <;> revert k <;> decide

theorem sta (f : FlagState) (b : ByteSelect) (k : StepNo) : Statement (.sta f b k) := by
  refine ⟨?_, by simp only [rowOfInstr]; decide⟩
  rcases f with ⟨_ | _, _ | _⟩ <;> cases b <;> revert k <;> decide

theorem ldi (f : FlagState) (b : ByteSelect) (k : StepNo) : Statement (.ldi f b k) := by
  refine ⟨?_, by simp only [rowOfInstr]; decide⟩
  rcases f with ⟨_ | _, _ | _⟩ <;> cases b <;> revert k <;> decide

theorem jmp (f : FlagState) (b : ByteSelect) (k : StepNo) : Statement (.jmp f b k) := by
  refine ⟨?_, by simp only [rowOfInstr]; decide⟩
  rcases f with ⟨_ | _, _ | _⟩ <;> cases b <;> revert k <;> decide

theorem jcNotTaken (flag : Bool) (b : ByteSelect) (k : StepNo) : Statement (.jcNotTaken flag b k) := by
  refine ⟨?_, by simp only [rowOfInstr]; decide⟩
  cases flag <;> cases b <;> revert k <;> decide

theorem jcTaken (flag : Bool) (b : ByteSelect) (k : StepNo) : Statement (.jcTaken flag b k) := by
  refine ⟨?_, by simp only [rowOfInstr]; decide⟩
  cases flag <;> cases b <;> revert k <;> decide

theorem jzNotTaken (flag : Bool) (b : ByteSelect) (k : StepNo) : Statement (.jzNotTaken flag b k) := by
  refine ⟨?_, by simp only [rowOfInstr]; decide⟩
  cases flag <;> cases b <;> revert k <;> decide

theorem jzTaken (flag : Bool) (b : ByteSelect) (k : StepNo) : Statement (.jzTaken flag b k) := by
  refine ⟨?_, by simp only [rowOfInstr]; decide⟩
  cases flag <;> cases b <;> revert k <;> decide

theorem und9 (f : FlagState) (b : ByteSelect) (k : StepNo) : Statement (.und9 f b k) := by
  refine ⟨?_, by simp only [rowOfInstr]; decide⟩
  rcases f with ⟨_ | _, _ | _⟩ <;> cases b <;> revert k <;> decide

theorem und10 (f : FlagState) (b : ByteSelect) (k : StepNo) : Statement (.und10 f b k) := by
  refine ⟨?_, by simp only [rowOfInstr]; decide⟩
  rcases f with ⟨_ | _, _ | _⟩ <;> cases b <;> revert k <;> decide

theorem und11 (f : FlagState) (b : ByteSelect) (k : StepNo) : Statement (.und11 f b k) := by
  refine ⟨?_, by simp only [rowOfInstr]; decide⟩
  rcases f with ⟨_ | _, _ | _⟩ <;> cases b <;> revert k <;> decide

theorem und12 (f : FlagState) (b : ByteSelect) (k : StepNo) : Statement (.und12 f b k) := by
  refine ⟨?_, by simp only [rowOfInstr]; decide⟩
  rcases f with ⟨_ | _, _ | _⟩ <;> cases b <;> revert k <;> decide

theorem und13 (f : FlagState) (b : ByteSelect) (k : StepNo) : Statement (.und13 f b k) := by
  refine ⟨?_, by simp only [rowOfInstr]; decide⟩
  rcases f with ⟨_ | _, _ | _⟩ <;> cases b <;> revert k <;> decide

theorem out (f : FlagState) (b : ByteSelect) (k : StepNo) : Statement (.out f b k) := by
  refine ⟨?_, by simp only [rowOfInstr]; decide⟩
  rcases f with ⟨_ | _, _ | _⟩ <;> cases b <;> revert k <;> decide

theorem hlt (f : FlagState) (b : ByteSelect) (k : StepNo) : Statement (.hlt f b k) := by
  refine ⟨?_, by simp only [rowOfInstr]; decide⟩
  rcases f with ⟨_ | _, _ | _⟩ <;> cases b <;> revert k <;> decide

end Sys2Proof.Laws.RowAgreement
end

