-- ==== Sys2Proof/Laws/Tables.lean ====
section
/-! SUPPORT. Laws/Tables.lean: the laws of the tables as data: what a tabulated table holds, what one
assignment changes, and what an admissible table is. -/

namespace Sys2Proof

@[simp] theorem Microprogram.word_tabulate (w : StepNo → CWord) (s : StepNo) : (Microprogram.tabulate w).word s = w s := by
  fin_cases s <;> rfl

@[simp] theorem OpcodeTable.row_tabulate (m : Opcode → Microprogram) (o : Opcode) :
    (OpcodeTable.tabulate m).row o = m o := by
  fin_cases o <;> rfl

@[simp] theorem VariantTable.variant_tabulate (t : FlagState → OpcodeTable) (f : FlagState) :
    (VariantTable.tabulate t).variant f = t f := by
  rcases f with ⟨_ | _, _ | _⟩ <;> rfl

/-- Microprograms with the same words are the same. -/
theorem Microprogram.eq_of_word {m m' : Microprogram} (h : ∀ s, m.word s = m'.word s) : m = m' := by
  cases m; cases m'
  have h0 := h 0; have h1 := h 1; have h2 := h 2; have h3 := h 3
  have h4 := h 4; have h5 := h 5; have h6 := h 6; have h7 := h 7
  simp_all [Microprogram.word]

namespace Machine

/-- What one assignment leaves in each entry (R122). -/
theorem entry_assignEntry (v : VariantTable) (f f' : FlagState) (o o' : Opcode) (s s' : StepNo) (w : CWord) :
    (assignEntry v f o s w).entry f' o' s' = if f' = f ∧ o' = o ∧ s' = s then w else v.entry f' o' s' := by
  simp [assignEntry, VariantTable.entry, OpcodeTable.entry]

/-- Every copy holds the base table's entries (R121). -/
theorem entry_copies (t : OpcodeTable) (f : FlagState) (o : Opcode) (s : StepNo) :
    (copies t).entry f o s = t.entry o s := by
  simp [copies, VariantTable.entry, OpcodeTable.entry]

/-- The fetch words of a table's parameters, as signals of its registry (R91; log 26). -/
theorem fetch0_eq (p : TableParameters) : p.fetch0 = composeWith p.sig [.mi, .co] := rfl
theorem fetch1_eq (p : TableParameters) : p.fetch1 = composeWith p.sig [.ro, .ii, .ce] := rfl

/-- What an admissible table is, constraint by constraint (R6, R96). -/
theorem admissible_iff (p : TableParameters) : p.admissible = true ↔
    p.sig.wellFormed = true ∧ (∀ o, p.base.entry o 0 = p.fetch0) ∧ (∀ o, p.base.entry o 1 = p.fetch1) ∧
      p.b4 = true ∧ p.b5 = true ∧ p.b6 = true ∧ p.b7 = true ∧ p.b8 = true := by
  simp only [TableParameters.admissible, TableParameters.b2, TableParameters.b3, Bool.and_eq_true, decide_eq_true_eq,
    and_assoc]

/-- B6, entry by entry (R96). -/
theorem b6_iff (p : TableParameters) : p.b6 = true ↔ p.base.entry 7 2 = 0 ∧ p.base.entry 8 2 = 0 := by
  simp [TableParameters.b6, Config.opcJc, Config.opcJz, Config.patchStep]

end Machine

end Sys2Proof
end

