-- ==== Sys2Proof/Laws/Render.lean ====
section
/-! SUPPORT. Laws/Render.lean: what one iteration of render does, and what the finished image reads as. -/

namespace Sys2Proof.Machine

/-- At and above 1024 the closed form is zero (R143, R144). -/
theorem imageByte_upper {a : Nat} (h : Config.decodeSize ≤ a) : imageByte a = 0 := by
  simp [imageByte, Nat.not_lt.mpr h]

/-- The finished image is in canonical form. -/
theorem finishedImage_wf : Memory.wf finishedImage = true := by
  rw [finishedImage, List.range_eq_range']
  exact Memory.wfFrom_filterMap imageByte 0 Config.imageSize (by simp)

/-- The finished image reads as the closed form, at every address (R144). -/
theorem read_finishedImage (a : Nat) : Memory.read finishedImage a = imageByte a := by
  have h := Memory.read_filterMap imageByte 0 Config.imageSize a
  rw [finishedImage, List.range_eq_range', h]
  split
  · rfl
  · rename_i h'
    rw [imageByte_upper (by simp [Config.imageSize, Config.decodeSize] at *; omega)]
    rfl

/-- One iteration of render below 1024: it completes, writes one byte, traces, and advances (R140, R141). -/
theorem renderIteration_eq (v : VariantTable) (s : State) (h : s.a < Config.decodeSize) :
    renderIteration v s =
      .next (((s.setImg (Memory.write s.img s.a
            (halfOf (decodeFields s.a).b
              (v.entry (decodeFields s.a).f (decodeFields s.a).o (decodeFields s.a).s)))).setTrace
          (s.trace ++ traceItemsOf s.a (decodeFields s.a)
            (v.entry (decodeFields s.a).f (decodeFields s.a).o (decodeFields s.a).s))).setA (s.a + 1)) := by
  simp [renderIteration, memWrite, h]

/-- What a step of the walk can do: an iteration, or the end of the loop (R140). -/
theorem renderStep_eq_next {s t : State} :
    renderStep s = .next t ↔
      (∃ v, s.a < Config.decodeSize ∧ s.vt = some v ∧ renderIteration v s = .next t) ∨
        (Config.decodeSize ≤ s.a ∧ t = s.setPhase .emit) := by
  unfold renderStep
  split
  · rename_i h
    cases hv : s.vt <;> simp [h, Nat.not_le.mpr h]
  · rename_i h
    simp [h, Nat.not_lt.mp h, eq_comm]

/-- The trace of one more address (R148). -/
theorem traceBelow_succ (n : Nat) :
    traceBelow (n + 1) = traceBelow n ++ traceItemsOf n (decodeFields n)
      (resolved (decodeFields n).f (decodeFields n).o (decodeFields n).s) := by
  simp [traceBelow, List.range_succ, List.flatMap_append]

end Sys2Proof.Machine
end

