-- ==== Sys2Proof/Laws/Step.lean ====
section
/-! SUPPORT. Laws/Step.lean: what a step can do, said once: if it answers a next state, then it is one of six moves of the
block followed by the environment's next address. -/

namespace Sys2Proof.Machine

/-- A step is a move of the block and then the next address (R27). -/
theorem step_eq_next {s t : State} : step s = .next t ↔ ∃ u, blockStep s = .next u ∧ t = presentAddress u := by
  unfold step thenPresent
  cases blockStep s <;> simp [eq_comm]

theorem step_eq_fault {s : State} {r : Fault} : step s = .fault r ↔ blockStep s = .fault r := by
  unfold step thenPresent
  cases blockStep s <;> simp

theorem step_eq_refused {s : State} {r : Refusal} : step s = .refused r ↔ blockStep s = .refused r := by
  unfold step thenPresent
  cases blockStep s <;> simp

/-- A read of the port gives a next state only when render has finished, and changes the data output alone (R147). -/
theorem romStep_next {s t : State} (h : romStep s = .next t) : s.phase = .emit ∧ ∃ d, t = s.setData d := by
  unfold romStep at h
  split at h
  · obtain ⟨hp, ht⟩ := exec_eq_next.mp h
    exact ⟨hp, _, ht⟩
  · obtain ⟨hp, -, ht⟩ := romRead_eq_next.mp h
    exact ⟨hp, _, ht⟩

/-- The moves of the block: five of a running generator, one of the finished ROM (R25, R27). -/
theorem blockStep_next {s t : State} (h : blockStep s = .next t) :
    (s.outcome = .running ∧ s.phase = .constants ∧ t = s.setPhase .expand) ∨
    (s.outcome = .running ∧ s.phase = .expand ∧ t = expandStep s) ∨
    (s.outcome = .running ∧ s.phase = .zeroFill ∧ t = beginRender s) ∨
    (s.outcome = .running ∧ s.phase = .render ∧ renderStep s = .next t) ∨
    (s.outcome = .running ∧ s.phase = .emit ∧ t = emit s) ∨
    (s.outcome = .done ∧ s.phase = .emit ∧ ∃ d, t = s.setData d) := by
  unfold blockStep at h
  split at h
  · rename_i ho
    unfold generatorStep at h
    split at h <;> rename_i hp <;> simp_all [eq_comm]
  · rename_i ho
    obtain ⟨hp, d, hd⟩ := romStep_next h
    exact .inr (.inr (.inr (.inr (.inr ⟨ho, hp, d, hd⟩))))
  · cases h

/-- A step faults exactly in a state whose run has failed (R160, R166). -/
theorem blockStep_fault {s : State} {r : Fault} (h : blockStep s = .fault r) :
    s.outcome = .fault .ioFailure ∧ r = .ioFailure := by
  unfold blockStep at h
  split at h
  · unfold generatorStep renderStep renderIteration at h
    split at h <;> try cases h
    split at h
    · split at h
      · simp only at h
        split at h <;> cases h
      · cases h
    · cases h
  · unfold romStep readUpperHalf at h
    split at h
    · rw [exec_eq_romRead] at h
      exact absurd h (romRead_ne_fault _ _ _)
    · exact absurd h (romRead_ne_fault _ _ _)
  · rename_i ho
    cases h
    exact ⟨ho, rfl⟩

end Sys2Proof.Machine
end

