-- ==== Sys2Proof/Tests/Slice0.lean ====
section
/-! SUPPORT. Tests/Slice0.lean: the model's own tests. Expected results come from the spec: the words and tables of its rules,
opcode_table.json, and the vectors of 95_test_vectors.md. One part shows, for each statement with hypotheses, that
something meets them. -/

namespace Sys2Proof.Tests

open Sys2Proof.Machine

/-! ### Well-formedness: each check refuses an ill-formed term -/

theorem test_fields_in_range : fieldsInRange 3 1 15 7 = true := by decide
theorem test_flag_field_out_of_range : fieldsInRange 4 0 0 0 = false := by decide
theorem test_byte_select_out_of_range : fieldsInRange 0 2 0 0 = false := by decide
theorem test_opcode_out_of_range : fieldsInRange 0 0 16 0 = false := by decide
theorem test_step_out_of_range : fieldsInRange 0 0 0 8 = false := by decide

/-- Two names on one bit (R191). -/
def sharedBit : Registry := fun n => if n = .j then 11 else sig n

/-- Halt and MI exchanged. -/
def haltMoved : Registry := fun n => if n = .hlt then 14 else if n = .mi then 15 else sig n

/-- Flag latch and jump exchanged. -/
def latchMoved : Registry := fun n => if n = .fi then 1 else if n = .j then 0 else sig n

theorem test_shared_bit_refused : sharedBit.injective = false := by decide
theorem test_halt_moved_refused : haltMoved.injective = true ∧ haltMoved.haltOnTop = false := by decide
theorem test_latch_moved_refused : latchMoved.injective = true ∧ latchMoved.flagLatchAtBottom = false := by decide

/-- The default parameters with one entry of the base table replaced. -/
def withEntry (o : Opcode) (s : StepNo) (w : CWord) : TableParameters :=
  { defaultParameters with
    base := .tabulate fun o' => .tabulate fun s' => if o' = o ∧ s' = s then w else base.entry o' s' }

/-- The default parameters pass, and each of B2 to B8 refuses a table that breaks it: another first or second fetch word, a
word after the microprogram's length, an undefined opcode that does something, a conditional jump that is not inert, an ADD
without flag latch, two operations on one opcode. A table whose fetch words are both zero is refused too (R91). -/
theorem test_each_table_check_refuses :
    defaultParameters.admissible = true ∧ (withEntry 3 0 0x4000).b2 = false ∧ (withEntry 3 1 0x1400).b3 = false ∧
      (withEntry 1 6 0x8000).b4 = false ∧ (withEntry 9 2 0x0802).b5 = false ∧ (withEntry 8 2 0x0802).b6 = false ∧
      (withEntry 2 4 0x0280).b7 = false ∧
      TableParameters.b8 { defaultParameters with opcodeOf := fun x => if x = .output then 15 else opcodeOf x } = false ∧
      TableParameters.admissible { defaultParameters with
        base := .tabulate fun o => .tabulate fun s => if s ≤ 1 then 0 else base.entry o s } = false := by
  decide +kernel

/-- BI and OI exchanged: a registry of this block that is not the default. -/
def displayMoved : Registry := fun n => if n = .bi then 4 else if n = .oi then 5 else sig n

/-- The default microprograms, signal by signal, over the other registry. -/
def otherParameters : TableParameters :=
  { defaultParameters with
    sig := displayMoved
    base := .tabulate fun o => .tabulate fun s =>
      composeWith displayMoved (allSignals.filter (asserts sig (base.entry o s))) }

/-- SIG and BASE are parameters (R6): another admissible pair, whose ADD reads B with another word. -/
theorem test_other_admissible_table :
    otherParameters.admissible = true ∧ otherParameters.base.entry 2 3 = 0x1010 := by decide +kernel

/-! ### Decoding: words written out bit by bit, flags | byte-select | opcode | step (R50, R61) -/

theorem test_decode_nop : decode 0b0000000001 = .ok (.nop ⟨false, false⟩ .high 1) := by decide
theorem test_decode_lda : decode 0b0100001111 = .ok (.lda ⟨false, true⟩ .high 7) := by decide
theorem test_decode_add : decode 0b0010010100 = .ok (.add ⟨false, false⟩ .low 4) := by decide
theorem test_decode_sub : decode 0b1000011100 = .ok (.sub ⟨true, false⟩ .high 4) := by decide
theorem test_decode_sta : decode 0b1110100011 = .ok (.sta ⟨true, true⟩ .low 3) := by decide
theorem test_decode_ldi : decode 0b1010101010 = .ok (.ldi ⟨true, false⟩ .low 2) := by decide
theorem test_decode_jmp : decode 0b0000110010 = .ok (.jmp ⟨false, false⟩ .high 2) := by decide
theorem test_decode_jcNotTaken : decode 0b1000111010 = .ok (.jcNotTaken true .high 2) := by decide
theorem test_decode_jcTaken : decode 0b0100111010 = .ok (.jcTaken false .high 2) := by decide
theorem test_decode_jzNotTaken : decode 0b0111000010 = .ok (.jzNotTaken true .low 2) := by decide
theorem test_decode_jzTaken : decode 0b1001000010 = .ok (.jzTaken false .high 2) := by decide
theorem test_decode_und9 : decode 0b0001001010 = .ok (.und9 ⟨false, false⟩ .high 2) := by decide
theorem test_decode_und10 : decode 0b1101010101 = .ok (.und10 ⟨true, true⟩ .high 5) := by decide
theorem test_decode_und11 : decode 0b0111011000 = .ok (.und11 ⟨false, true⟩ .low 0) := by decide
theorem test_decode_und12 : decode 0b1001100110 = .ok (.und12 ⟨true, false⟩ .high 6) := by decide
theorem test_decode_und13 : decode 0b1111101001 = .ok (.und13 ⟨true, true⟩ .low 1) := by decide
theorem test_decode_out : decode 0b0011110010 = .ok (.out ⟨false, false⟩ .low 2) := by decide
theorem test_decode_hlt : decode 0b1111111111 = .ok (.hlt ⟨true, true⟩ .low 7) := by decide

theorem test_encode_examples :
    encode (.nop ⟨false, false⟩ .high 0) = 0 ∧ encode (.jcTaken false .high 2) = 314 ∧
      encode (.jcTaken false .low 2) = 442 ∧ encode (.hlt ⟨true, true⟩ .low 7) = 1023 ∧
      encode (.jzTaken false .high 2) = 578 := by decide

theorem test_decode_out_of_domain : decode 1024 = .error (.outsideDecodeDomain 1024) := by decide
theorem test_table_word_short : decodeTableWord 8 0xFA = some (.hlt ⟨false, false⟩ .low 2) := by decide
theorem test_table_word_above : decodeTableWord 16 0x53A = none := by decide

/-! ### Control words (R91, R90, 95_test_vectors.md §3.1) -/

theorem test_control_words :
    cw [.mi, .co] = 0x4004 ∧ cw [.co, .mi] = 0x4004 ∧ cw [.mi, .co, .mi] = 0x4004 ∧ cw [.ro, .ii, .ce] = 0x1408 ∧
      cw [.io, .mi] = 0x4800 ∧ cw [.ro, .ai] = 0x1200 ∧ cw [.ro, .bi] = 0x1020 ∧ cw [.eo, .ai, .fi] = 0x0281 ∧
      cw [.eo, .ai, .su, .fi] = 0x02C1 ∧ cw [.ao, .ri] = 0x2100 ∧ cw [.io, .ai] = 0x0A00 ∧ cw [.io, .j] = 0x0802 ∧
      cw [.ao, .oi] = 0x0110 ∧ cw [.hlt] = 0x8000 ∧ cw [] = 0 ∧ cw allSignals = 0xFFFF := by decide

theorem test_halves : hi8 0x0281 = 0x02 ∧ lo8 0x0281 = 0x81 ∧ hi8 0x8000 = 0x80 ∧ lo8 0x8000 = 0x00 := by decide
theorem test_counter_out_has_two_kinds : signalKinds .co = [.registerOut, .programCounterControl] := by decide

/-! ### The base table (R116 and opcode_table.json) -/

theorem test_base_rows :
    base.row 0 = ⟨0x4004, 0x1408, 0x0000, 0x0000, 0x0000, 0x0000, 0x0000, 0x0000⟩ ∧
      base.row 1 = ⟨0x4004, 0x1408, 0x4800, 0x1200, 0x0000, 0x0000, 0x0000, 0x0000⟩ ∧
      base.row 2 = ⟨0x4004, 0x1408, 0x4800, 0x1020, 0x0281, 0x0000, 0x0000, 0x0000⟩ ∧
      base.row 3 = ⟨0x4004, 0x1408, 0x4800, 0x1020, 0x02C1, 0x0000, 0x0000, 0x0000⟩ ∧
      base.row 4 = ⟨0x4004, 0x1408, 0x4800, 0x2100, 0x0000, 0x0000, 0x0000, 0x0000⟩ ∧
      base.row 5 = ⟨0x4004, 0x1408, 0x0A00, 0x0000, 0x0000, 0x0000, 0x0000, 0x0000⟩ ∧
      base.row 6 = ⟨0x4004, 0x1408, 0x0802, 0x0000, 0x0000, 0x0000, 0x0000, 0x0000⟩ ∧
      base.row 7 = ⟨0x4004, 0x1408, 0x0000, 0x0000, 0x0000, 0x0000, 0x0000, 0x0000⟩ ∧
      base.row 8 = ⟨0x4004, 0x1408, 0x0000, 0x0000, 0x0000, 0x0000, 0x0000, 0x0000⟩ ∧
      base.row 9 = ⟨0x4004, 0x1408, 0x0000, 0x0000, 0x0000, 0x0000, 0x0000, 0x0000⟩ ∧
      base.row 10 = ⟨0x4004, 0x1408, 0x0000, 0x0000, 0x0000, 0x0000, 0x0000, 0x0000⟩ ∧
      base.row 11 = ⟨0x4004, 0x1408, 0x0000, 0x0000, 0x0000, 0x0000, 0x0000, 0x0000⟩ ∧
      base.row 12 = ⟨0x4004, 0x1408, 0x0000, 0x0000, 0x0000, 0x0000, 0x0000, 0x0000⟩ ∧
      base.row 13 = ⟨0x4004, 0x1408, 0x0000, 0x0000, 0x0000, 0x0000, 0x0000, 0x0000⟩ ∧
      base.row 14 = ⟨0x4004, 0x1408, 0x0110, 0x0000, 0x0000, 0x0000, 0x0000, 0x0000⟩ ∧
      base.row 15 = ⟨0x4004, 0x1408, 0x8000, 0x0000, 0x0000, 0x0000, 0x0000, 0x0000⟩ := by decide

/-- The rows of JC with Carry = 1 and of JZ with Zero = 1 in opcode_table.json, and the corner cases of §3.4. -/
theorem test_resolved_rows :
    ((expand jumpWord base).variant ⟨false, true⟩).row 7 = ⟨0x4004, 0x1408, 0x0802, 0, 0, 0, 0, 0⟩ ∧
      ((expand jumpWord base).variant ⟨true, false⟩).row 8 = ⟨0x4004, 0x1408, 0x0802, 0, 0, 0, 0, 0⟩ ∧
      (expand jumpWord base).entry ⟨true, false⟩ 7 2 = 0 ∧ (expand jumpWord base).entry ⟨false, true⟩ 8 2 = 0 ∧
      (expand jumpWord base).entry ⟨true, true⟩ 7 2 = 0x0802 ∧ (expand jumpWord base).entry ⟨true, true⟩ 8 2 = 0x0802 ∧
      (expand jumpWord base).entry ⟨true, true⟩ 7 1 = 0x1408 ∧ (expand jumpWord base).entry ⟨true, true⟩ 7 3 = 0 := by
  decide +kernel

/-! ### Something meets the hypotheses of each statement -/

/-- A run at the beginning of a phase before the walk. -/
def startOf (p : Phase) : State := { State.reset with phase := p, vt := if p = .zeroFill then some (expand jumpWord base) else none }

/-- A run about to write the last address of the decode domain, the image not yet touched. -/
def lastIteration : State := { State.reset with phase := .render, a := 1023, vt := some (expand jumpWord base) }

/-- A finished walk before the end of its loop, before emit, after a failed emit. -/
def walkOver : State := { finishedState with phase := .render, outcome := .running, file := none }
def beforeEmit : State := { finishedState with outcome := .running, file := none }
def afterFailure : State := { finishedState with outcome := .fault .ioFailure, file := none }

theorem blockInv_reset : BlockInv State.reset := by
  constructor <;> simp [State.reset, unlistedByte, traceBelow]

theorem finishedState_img : finishedState.img = finishedImage := by simp only [finishedState]
theorem finishedState_trace : finishedState.trace = traceBelow Config.decodeSize := by simp only [finishedState]
theorem finishedState_file : finishedState.file = some (imageBytes finishedImage) := by simp only [finishedState]
theorem finishedState_vt : finishedState.vt = some (expand jumpWord base) := by simp only [finishedState]

theorem blockInv_of_image {s : State} (h1 : s.img = finishedImage) (h2 : s.a = Config.decodeSize)
    (h3 : s.trace = traceBelow Config.decodeSize) (h4 : s.vt = some (expand jumpWord base)) (h5 : s.phase = .emit)
    (h6 : s.outcome = .done → s.file = some (imageBytes finishedImage)) : BlockInv s where
  canonical := h1 ▸ finishedImage_wf
  index_le := by rw [h2]
  written addr := by
    rw [h1, h2, read_finishedImage]
    split
    · rfl
    · exact imageByte_upper (Nat.le_of_not_lt ‹_›)
  traced := by rw [h3, h2]
  table := by rw [h4, h5]; rfl
  not_begun := fun _ h => absurd h5 h
  walk_over := fun _ => h2
  outcome_last := fun _ => h5
  file_whole := fun h => by rw [h6 h, h1]

theorem blockInv_finished : BlockInv finishedState :=
  blockInv_of_image finishedState_img rfl finishedState_trace finishedState_vt rfl fun _ => finishedState_file
theorem blockInv_before_emit : BlockInv beforeEmit := by
  refine blockInv_of_image ?_ ?_ ?_ ?_ ?_ ?_ <;> (simp only [beforeEmit, finishedState]; try exact nofun)
theorem blockInv_after_failure : BlockInv afterFailure := by
  refine blockInv_of_image ?_ ?_ ?_ ?_ ?_ ?_ <;> (simp only [afterFailure, finishedState]; try exact nofun)

theorem finished_finished : Finished finishedState :=
  ⟨rfl, fun a _ => by rw [finishedState_img]; exact read_finishedImage a⟩

theorem finished_setPort (p : BitVec 11) : Finished (finishedState.setPort p) :=
  ⟨rfl, fun a _ => by rw [setPort_img, finishedState_img]; exact read_finishedImage a⟩

theorem witness_EncodedAddressIsTheWeightedSum : fieldsInRange 3 1 15 7 = true := by decide
theorem witness_addresses_of_the_decode_domain : (0 : Nat) < 1024 ∧ (1023 : Nat) < 1024 ∧ (1024 : Nat) ≤ 1024 := by decide
theorem witness_EveryBitBelongsToExactlyOneSignal :
    sig.injective = true ∧ Signal.io ≠ Signal.j ∧ sharedBit .io = sharedBit .j := by decide
theorem witness_CompositionAssertsExactlyTheNamedSignals :
    sig.injective = true ∧ [Signal.io, .j].Perm [.j, .io] ∧ Signal.io ∈ [Signal.io, .j] := by decide
theorem witness_HalvesOfAWordLoseNothing : (0 : Nat) < 8 ∧ (7 : Nat) < 8 := by decide
/-- FetchPrologueIsUniversal (both clauses), CarryJumpIsPatchedExactlyOnCarry, ZeroJumpIsPatchedExactlyOnZero,
ExactlyFourEntriesArePatched, PatchesAreIndependent, AliasedTableIsNotTheExpansion. -/
theorem witness_admissible_tables :
    defaultParameters.admissible = true ∧ defaultParameters.sig.wellFormed = true ∧ defaultParameters.b6 = true ∧
      (∀ o, base.entry o 0 = 0x4004) ∧ (∀ o, base.entry o 1 = 0x1408) ∧
      (⟨false, true⟩ : FlagState).carry = true ∧ (⟨true, false⟩ : FlagState).carry = false ∧
      (⟨true, false⟩ : FlagState).zero = true ∧ (⟨false, true⟩ : FlagState).zero = false := by decide +kernel
theorem witness_AssignmentChangesOneEntryOnly :
    ((⟨true, true⟩, 7, 2) : FlagState × Opcode × StepNo) ≠ (⟨false, true⟩, 7, 2) := by decide
theorem witness_NoLatchAtOrBeforeAFlagDependentStep :
    resolved ⟨false, true⟩ 7 2 ≠ resolved ⟨false, false⟩ 7 2 ∧ (2 : StepNo) ≤ 2 := by decide +kernel
theorem witness_MixedHalvesDifferOnlyAtConditionalJumps :
    ¬ (((7 : Opcode) = 7 ∨ (7 : Opcode) = 8) ∧ (3 : StepNo) = 2) := by decide
theorem witness_RunStartsFromTheStatedValues : (0 : Nat) < 2048 ∧ (2047 : Nat) < 2048 := by decide

/-- EveryStepKeepsTheInvariant, EveryStepKeepsTheCanonicalForm, PhasesPassOnceInOrder, OnlyEmitRaisesIOFailure (first
clause). -/
theorem witness_step_from_reset :
    BlockInv State.reset ∧ Memory.wf State.reset.img = true ∧ State.reset.outcome = .running ∧
      ¬ (State.reset.outcome = .running ∧ State.reset.phase = .emit) ∧ ∃ t, step State.reset = .next t :=
  ⟨blockInv_reset, rfl, rfl, by decide, _, rfl⟩

theorem witness_GeneratorPhasesTakeTheirEffect :
    (startOf .constants).outcome = .running ∧ (startOf .constants).phase = .constants ∧
      (startOf .expand).outcome = .running ∧ (startOf .expand).phase = .expand ∧
      (startOf .zeroFill).outcome = .running ∧ (startOf .zeroFill).phase = .zeroFill ∧
      walkOver.outcome = .running ∧ walkOver.phase = .render ∧ 1024 ≤ walkOver.a :=
  ⟨rfl, rfl, rfl, rfl, rfl, rfl, rfl, rfl, le_refl _⟩

theorem witness_WalkStepWritesTheSelectedHalf :
    Memory.wf lastIteration.img = true ∧ lastIteration.outcome = .running ∧ lastIteration.phase = .render ∧
      lastIteration.a < 1024 ∧ lastIteration.vt = some (expand jumpWord base) ∧
      (decodeFields 1023).b = .low ∧ (decodeFields 0).b = .high ∧ (1022 : Nat) ≠ lastIteration.a :=
  ⟨rfl, rfl, rfl, by decide, rfl, rfl, rfl, by decide⟩

theorem witness_TraceOfAnAddress :
    (decodeFields 4).s.val < 5 ∧ (decodeFields 5).s.val = 5 ∧ 5 < (decodeFields 6).s.val := by decide

/-- FinishedTraceHas768RecordsAnd128Blanks, ImageHas2048BytesAndAZeroUpperHalf, FinishedImageHasTheClosedForm,
FinishedImagesAreIdentical, LastPhaseImageIsFinished, FinishedImageFigures, NothingElseFaults (first clause). -/
theorem witness_finished_runs :
    BlockInv finishedState ∧ finishedState.phase = .emit ∧ BlockInv beforeEmit ∧ beforeEmit.phase = .emit ∧
      finishedState.outcome ≠ .fault .ioFailure ∧ (0 : Byte) ∈ (imageBytes finishedState.img).drop 1024 :=
  ⟨blockInv_finished, rfl, blockInv_before_emit, rfl, by decide, by
    rw [List.mem_iff_getElem]
    refine ⟨0, by simp [imageBytes, Config.imageSize], ?_⟩
    simp only [imageBytes, List.getElem_drop, List.getElem_map, List.getElem_range, finishedState_img]
    exact (read_finishedImage 1024).trans (imageByte_upper (by decide))⟩

/-- LastPhaseStepIsEmit, OnlyEmitRaisesIOFailure (second clause), EveryRunEndsWithTheImageFinished. -/
theorem witness_before_emit :
    BlockInv beforeEmit ∧ beforeEmit.outcome = .running ∧ beforeEmit.phase = .emit ∧ (2047 : Nat) < 2048 :=
  ⟨blockInv_before_emit, rfl, rfl, by decide⟩

/-- PhasesPassOnceInOrder, its clauses on a change of OUTCOME and on the last phase. -/
theorem witness_outcome_changes :
    ∃ t, step beforeEmit = .next t ∧ t.outcome ≠ beforeEmit.outcome ∧ beforeEmit.phase = .emit := by
  refine ⟨presentAddress (emit beforeEmit), rfl, ?_, rfl⟩
  rcases emitWith_cases (Config.hostStoresFile Config.outPath (imageBytes beforeEmit.img) beforeEmit.draws)
    (Config.fileAfterFailure beforeEmit.draws) beforeEmit with h | h <;>
    · rw [presentAddress_outcome, emit, h]
      exact nofun

theorem witness_EmitHandsOverTheImage : (true = true) ∧ (false = false) ∧ (2047 : Nat) < 2048 := by decide

/-- UpperHalfIsNeverWritten: both ends of the range read, a write at the last written address and one at the first above. -/
theorem witness_UpperHalfIsNeverWritten :
    BlockInv finishedState ∧ (1024 : Nat) ≤ 1024 ∧ (1024 : Nat) ≤ 2047 ∧ (2047 : Nat) < 2048 ∧
      Memory.wf State.reset.img = true ∧ (1022 : Nat) ≠ 1023 ∧ (∃ t, memWrite 1023 0x40 State.reset = .ok t) ∧
      ¬ ∃ t, memWrite 1024 0x40 State.reset = .ok t :=
  ⟨blockInv_finished, by decide, by decide, by decide, rfl, by decide,
    ⟨_, memWrite_eq_ok.mpr ⟨by decide, rfl⟩⟩, fun ⟨_, h⟩ => absurd (memWrite_eq_ok.mp h).1 (by decide)⟩

theorem witness_TraceNeverInfluencesTheRest :
    AgreeButTrace State.reset { State.reset with trace := [.blank] } ∧ ∃ t, step State.reset = .next t :=
  ⟨rfl, _, rfl⟩

/-- NoReturnFromTheFailure, NothingElseFaults (second clause). -/
theorem witness_after_failure :
    BlockInv afterFailure ∧ afterFailure.outcome = .fault .ioFailure ∧ step afterFailure = .fault .ioFailure :=
  ⟨blockInv_after_failure, rfl, rfl⟩

theorem witness_StepRunsThePresentedInstruction :
    finishedState.outcome = .done ∧ decode finishedState.port.toNat = .ok (.nop ⟨false, false⟩ .high 0) :=
  ⟨rfl, by rfl⟩

/-- ByteReadsAnswerAndStayTheSame: both ranges at their boundary, and a step of a finished block. -/
theorem witness_ByteReadsAnswerAndStayTheSame :
    (2047 : Nat) < 2048 ∧ (2048 : Nat) ≤ 2048 ∧ finishedState.phase = .emit ∧ ∃ t, step finishedState = .next t :=
  ⟨by decide, by decide, rfl, _, rfl⟩

/-- EveryInstructionIsOneByteRead (both clauses), InstructionsChangeTheDataOutputOnly. -/
theorem witness_EveryInstructionIsOneByteRead :
    finishedState.phase = .emit ∧ State.reset.phase ≠ .emit ∧
      ∃ t, exec (.add ⟨true, true⟩ .low 4) finishedState = .next t :=
  ⟨rfl, by decide, _, rfl⟩

/-- The statements on what each family reads, ControlWordIsTwoReads128Apart, InstructionReadsDependOnFlagsAtStepTwoOnly. -/
theorem witness_finished_image :
    Finished finishedState ∧
      (.und13 ⟨true, true⟩ .low 7 : Instr) ∈
        ([.nop ⟨true, true⟩ .low 7, .und9 ⟨true, true⟩ .low 7, .und10 ⟨true, true⟩ .low 7, .und11 ⟨true, true⟩ .low 7,
          .und12 ⟨true, true⟩ .low 7, .und13 ⟨true, true⟩ .low 7] : List Instr) ∧
      ∃ t, exec (.hlt ⟨true, true⟩ .low 7) finishedState = .next t :=
  ⟨finished_finished, by decide, _, rfl⟩

/-- PortAnswersEveryAddress: below and at the boundary of the upper half. -/
theorem witness_PortAnswersEveryAddress :
    Finished finishedState ∧ finishedState.outcome = .done ∧
      Finished (finishedState.setPort 1024) ∧ (finishedState.setPort 1024).outcome = .done ∧
      1024 ≤ (finishedState.setPort 1024).port.toNat :=
  ⟨finished_finished, rfl, finished_setPort 1024, rfl, by decide⟩

theorem witness_FlagBlocksDifferAtFourOffsetsOnly :
    (255 : Nat) < 256 ∧ (255 : Nat) ≠ 0x3A ∧ (255 : Nat) ≠ 0xBA ∧ (255 : Nat) ≠ 0x42 ∧ (255 : Nat) ≠ 0xC2 ∧
      (0x3A : Nat) < 256 ∧ (0xBA : Nat) < 256 ∧ (0x42 : Nat) < 256 ∧ (0xC2 : Nat) < 256 := by decide

/-! ### The trace (§3.7) -/

theorem test_trace_begins :
    (traceBelow 16).map (fun i => match i with | .record r => (r.address, r.s.val, r.w.toNat) | .blank => (0, 9, 0)) =
      [(0, 0, 0x4004), (1, 1, 0x1408), (2, 2, 0), (3, 3, 0), (4, 4, 0), (5, 5, 0), (0, 9, 0), (8, 0, 0x4004),
       (9, 1, 0x1408), (10, 2, 0x4800), (11, 3, 0x1200), (12, 4, 0), (13, 5, 0), (0, 9, 0)] := by decide +kernel

/-! ### One step of each instruction, presented at the port of a finished block (§3.5, §3.6) -/

/-- The data output a step leaves. -/
def dataAfter : StepResult → Option Byte
  | .next t => some t.data
  | _ => none

/-- NOP, LDA, ADD, SUB, STA, LDI, JMP, JC not taken and taken. -/
theorem test_step_of_each_instruction_1 :
    dataAfter (step (State.reset.withFetchWord 16 0x001)) = some 0x14 ∧
      dataAfter (step (State.reset.withFetchWord 16 0x10B)) = some 0x12 ∧
      dataAfter (step (State.reset.withFetchWord 16 0x094)) = some 0x81 ∧
      dataAfter (step (State.reset.withFetchWord 16 0x29C)) = some 0xC1 ∧
      dataAfter (step (State.reset.withFetchWord 16 0x323)) = some 0x21 ∧
      dataAfter (step (State.reset.withFetchWord 16 0x22A)) = some 0x0A ∧
      dataAfter (step (State.reset.withFetchWord 16 0x032)) = some 0x08 ∧
      dataAfter (step (State.reset.withFetchWord 16 0x23A)) = some 0x00 ∧
      dataAfter (step (State.reset.withFetchWord 16 0x13A)) = some 0x08 := by decide +kernel

/-- JZ not taken and taken, UND9 to UND13, OUT, HLT, and the upper half of the port. -/
theorem test_step_of_each_instruction_2 :
    dataAfter (step (State.reset.withFetchWord 16 0x142)) = some 0x00 ∧
      dataAfter (step (State.reset.withFetchWord 16 0x242)) = some 0x08 ∧
      dataAfter (step (State.reset.withFetchWord 16 0x049)) = some 0x14 ∧
      dataAfter (step (State.reset.withFetchWord 16 0x351)) = some 0x14 ∧
      dataAfter (step (State.reset.withFetchWord 16 0x1D9)) = some 0x08 ∧
      dataAfter (step (State.reset.withFetchWord 16 0x261)) = some 0x14 ∧
      dataAfter (step (State.reset.withFetchWord 16 0x3E9)) = some 0x08 ∧
      dataAfter (step (State.reset.withFetchWord 16 0x0F2)) = some 0x10 ∧
      dataAfter (step (State.reset.withFetchWord 16 0x37A)) = some 0x80 ∧
      dataAfter (step (State.reset.withFetchWord 16 0x53A)) = some 0x00 := by decide +kernel

theorem test_read_before_the_image :
    exec (.nop ⟨false, false⟩ .high 0) State.reset = .refused .imageNotFinished := by rfl
theorem test_no_such_address : memRead 2048 State.reset = .error (.noSuchAddress 2048) := by rfl
theorem test_last_address : memRead 2047 State.reset = .ok 0 := by rfl
theorem test_upper_half_is_not_written : memWrite 1024 0x40 State.reset = .error (.notWritten 1024) := by rfl

/-! ### The whole image against the dump of 95_test_vectors.md §3.6, sixteen bytes a number -/

/-- Sixteen bytes of the image from an address on, as one number, the first byte on top. -/
def lineAt (a : Nat) : Nat := (List.range 16).foldl (fun n i => n * 256 + (imageByte (a + i)).toNat) 0

/-- The dump's lines of flag block 00. -/
def dump0 : List Nat :=
  [0x40140000000000004014481200000000, 0x40144810020000004014481002000000,
    0x401448210000000040140A0000000000, 0x40140800000000004014000000000000,
    0x40140000000000004014000000000000, 0x40140000000000004014000000000000,
    0x40140000000000004014000000000000, 0x40140100000000004014800000000000]
  ++ [0x04080000000000000408000000000000, 0x040800208100000004080020C1000000,
    0x04080000000000000408000000000000, 0x04080200000000000408000000000000,
    0x04080000000000000408000000000000, 0x04080000000000000408000000000000,
    0x04080000000000000408000000000000, 0x04081000000000000408000000000000]

/-- The dump's lines of flag block 01. -/
def dump1 : List Nat :=
  [0x40140000000000004014481200000000, 0x40144810020000004014481002000000,
    0x401448210000000040140A0000000000, 0x40140800000000004014080000000000,
    0x40140000000000004014000000000000, 0x40140000000000004014000000000000,
    0x40140000000000004014000000000000, 0x40140100000000004014800000000000]
  ++ [0x04080000000000000408000000000000, 0x040800208100000004080020C1000000,
    0x04080000000000000408000000000000, 0x04080200000000000408020000000000,
    0x04080000000000000408000000000000, 0x04080000000000000408000000000000,
    0x04080000000000000408000000000000, 0x04081000000000000408000000000000]

/-- The dump's lines of flag block 10. -/
def dump2 : List Nat :=
  [0x40140000000000004014481200000000, 0x40144810020000004014481002000000,
    0x401448210000000040140A0000000000, 0x40140800000000004014000000000000,
    0x40140800000000004014000000000000, 0x40140000000000004014000000000000,
    0x40140000000000004014000000000000, 0x40140100000000004014800000000000]
  ++ [0x04080000000000000408000000000000, 0x040800208100000004080020C1000000,
    0x04080000000000000408000000000000, 0x04080200000000000408000000000000,
    0x04080200000000000408000000000000, 0x04080000000000000408000000000000,
    0x04080000000000000408000000000000, 0x04081000000000000408000000000000]

/-- The dump's lines of flag block 11. -/
def dump3 : List Nat :=
  [0x40140000000000004014481200000000, 0x40144810020000004014481002000000,
    0x401448210000000040140A0000000000, 0x40140800000000004014080000000000,
    0x40140800000000004014000000000000, 0x40140000000000004014000000000000,
    0x40140000000000004014000000000000, 0x40140100000000004014800000000000]
  ++ [0x04080000000000000408000000000000, 0x040800208100000004080020C1000000,
    0x04080000000000000408000000000000, 0x04080200000000000408020000000000,
    0x04080200000000000408000000000000, 0x04080000000000000408000000000000,
    0x04080000000000000408000000000000, 0x04081000000000000408000000000000]

theorem test_image_is_the_dump :
    ((List.range 64).map fun i => lineAt (16 * i)) = dump0 ++ dump1 ++ dump2 ++ dump3 := by decide +kernel

theorem test_image_upper_half : ((List.range 1024).all fun i => decide (imageByte (1024 + i) = 0)) = true := by
  decide +kernel

/-- The addresses at which a variant table's image differs from the image, with the byte it holds there. -/
def differences (v : VariantTable) : List (Nat × Nat) :=
  (List.range 1024).filterMap fun a =>
    let x := decodeFields a
    let y := halfOf x.b (v.entry x.f x.o x.s)
    if y = imageByte a then none else some (a, y.toNat)

/-- The two wrong builds of §4.4 differ from the image in the eight bytes it lists. -/
theorem test_wrong_builds :
    differences (aliasedTable jumpWord base) =
      [(0x03A, 0x08), (0x042, 0x08), (0x0BA, 0x02), (0x0C2, 0x02), (0x142, 0x08), (0x1C2, 0x02), (0x23A, 0x08),
       (0x2BA, 0x02)] ∧
    differences (copies base) =
      [(0x13A, 0), (0x1BA, 0), (0x242, 0), (0x2C2, 0), (0x33A, 0), (0x342, 0), (0x3BA, 0), (0x3C2, 0)] := by
  decide +kernel

end Sys2Proof.Tests
end

section
/-! PROOFS. The encoder over the field numbers (R53): the fields do not overlap, so the OR of the shifted fields is their
weighted sum. -/

namespace Sys2Proof

theorem fieldsInRange_iff {f b o s : Nat} :
    fieldsInRange f b o s = true ↔ f < 4 ∧ b < 2 ∧ o < 16 ∧ s < 8 := by
  simp [fieldsInRange, and_assoc]

/-- Each field fits below the shift of the next one, so every OR of `encodeNumbers` is a sum. The bound on `f` is not
needed: nothing stands above it. -/
theorem encodeNumbers_eq_weightedSum (f : Nat) {b o s : Nat} (hb : b < 2) (ho : o < 16) (hs : s < 8) :
    encodeNumbers f b o s = 256 * f + 128 * b + 8 * o + s := by
  have step_below_opcode : o <<< 3 ||| s = o <<< 3 + s :=
    (Nat.shiftLeft_add_eq_or_of_lt (by omega) o).symm
  have opcode_below_byteSelect : b <<< 7 ||| (o <<< 3 + s) = b <<< 7 + (o <<< 3 + s) :=
    (Nat.shiftLeft_add_eq_or_of_lt (by omega) b).symm
  have byteSelect_below_flags : f <<< 8 ||| (b <<< 7 + (o <<< 3 + s)) = f <<< 8 + (b <<< 7 + (o <<< 3 + s)) :=
    (Nat.shiftLeft_add_eq_or_of_lt (by omega) f).symm
  calc encodeNumbers f b o s
      = f <<< 8 ||| (b <<< 7 ||| (o <<< 3 ||| s)) := by simp only [encodeNumbers, Nat.or_assoc]
    _ = f <<< 8 + (b <<< 7 + (o <<< 3 + s)) := by
        rw [step_below_opcode, opcode_below_byteSelect, byteSelect_below_flags]
    _ = 256 * f + 128 * b + 8 * o + s := by omega

/-- Settles O3: the OR is the definition of `encodeNumbers`, and the bound is read off the weighted sum. -/
theorem encodedAddressIsTheWeightedSum : Obligations.EncodedAddressIsTheWeightedSum := by
  intro f b o s hrange
  obtain ⟨hf, hb, ho, hs⟩ := fieldsInRange_iff.mp hrange
  have hsum := encodeNumbers_eq_weightedSum f hb ho hs
  refine ⟨rfl, hsum, ?_⟩
  omega

end Sys2Proof
end

section
/-! PROOFS. Registries of the sixteen signals (R72): injectivity read off the check, and no bit left spare. -/

namespace Sys2Proof

theorem mem_allSignals (n : Signal) : n ∈ allSignals := by
  cases n <;> decide

theorem nodup_allSignals : allSignals.Nodup := by decide

/-- The check of R72 runs over every signal, so it is injectivity. -/
theorem Registry.injective_iff {r : Registry} : r.injective = true ↔ Function.Injective r := by
  simp only [Registry.injective, List.all_eq_true, mem_allSignals, true_imp_iff, Bool.or_eq_true, decide_eq_true_eq]
  exact forall₂_congr fun m n => or_comm.trans Decidable.imp_iff_not_or.symm

/-- Sixteen signals on sixteen bits (R72): an injective registry, read along the list of the signals, is an injective
map of `Fin 16` into itself, so it leaves no bit spare. -/
theorem Registry.bijective_of_injective {r : Registry} (hr : Function.Injective r) : Function.Bijective r := by
  have listed_injective : Function.Injective (r ∘ allSignals.get) :=
    hr.comp (List.nodup_iff_injective_get.mp nodup_allSignals)
  have listed_surjective : Function.Surjective (r ∘ allSignals.get) :=
    Finite.injective_iff_surjective (α := Fin 16).mp listed_injective
  exact ⟨hr, listed_surjective.of_comp⟩

theorem Registry.injective_of_wellFormed {r : Registry} (h : r.wellFormed = true) : Function.Injective r := by
  simp only [Registry.wellFormed, Bool.and_eq_true] at h
  obtain ⟨⟨hinj, _⟩, _⟩ := h
  exact Registry.injective_iff.mp hinj

/-- Settles O8: an injective registry covers the bits by counting, and a shared bit contradicts injectivity. -/
theorem everyBitBelongsToExactlyOneSignal : Obligations.EveryBitBelongsToExactlyOneSignal := by
  refine ⟨fun r hr => Registry.bijective_of_injective (Registry.injective_iff.mp hr), by decide, ?_⟩
  intro r m n hne hshared
  refine Bool.eq_false_iff.mpr fun hwf => ?_
  exact hne (Registry.injective_of_wellFormed hwf hshared)

end Sys2Proof
end

section
/-! PROOFS. Composed control words (R71): a composed word depends on the set of its names alone, and distinct names of
an injective registry have disjoint masks. -/

namespace Sys2Proof.Machine

theorem signalMask_eq_twoPow (r : Registry) (n : Signal) : signalMask r n = BitVec.twoPow 16 (r n).val := rfl

@[simp] theorem getLsbD_signalMask (r : Registry) (n : Signal) (i : Nat) :
    (signalMask r n).getLsbD i = decide ((r n).val = i) := by
  simp [signalMask_eq_twoPow, BitVec.getLsbD_twoPow]

@[simp] theorem toNat_signalMask (r : Registry) (n : Signal) : (signalMask r n).toNat = 2 ^ (r n).val :=
  BitVec.toNat_twoPow_of_lt (r n).isLt

@[simp] theorem composeWith_nil (r : Registry) : composeWith r [] = 0 := rfl

@[simp] theorem composeWith_cons (r : Registry) (n : Signal) (names : List Signal) :
    composeWith r (n :: names) = signalMask r n ||| composeWith r names := rfl

theorem getLsbD_composeWith {r : Registry} {names : List Signal} {i : Nat} :
    (composeWith r names).getLsbD i = true ↔ ∃ n ∈ names, (r n).val = i := by
  induction names with
  | nil => simp
  | cons n names ih => simp [ih]

/-- A bit of a composed word comes from the signal that claims it, and no other signal claims it. -/
theorem asserts_composeWith {r : Registry} (hr : Function.Injective r) {names : List Signal} {n : Signal} :
    asserts r (composeWith r names) n = true ↔ n ∈ names := by
  rw [asserts, getLsbD_composeWith]
  constructor
  · rintro ⟨m, hm, hbit⟩
    exact hr (Fin.ext hbit) ▸ hm
  · exact fun hn => ⟨n, hn, rfl⟩

/-- Neither the order of the names nor a repeat matters, in any registry (R71). -/
theorem composeWith_congr_mem (r : Registry) {names names' : List Signal} (h : ∀ n, n ∈ names ↔ n ∈ names') :
    composeWith r names = composeWith r names' := by
  refine BitVec.eq_of_getLsbD_eq fun i _ => Bool.eq_iff_iff.mpr ?_
  simp only [getLsbD_composeWith, h]

theorem signalMask_and_composeWith {r : Registry} (hr : Function.Injective r) {names : List Signal} {n : Signal}
    (hn : n ∉ names) : signalMask r n &&& composeWith r names = 0#16 := by
  refine BitVec.eq_of_getLsbD_eq fun i _ => ?_
  by_cases hi : (r n).val = i
  · subst hi
    have unclaimed : (composeWith r names).getLsbD (r n).val = false :=
      Bool.eq_false_iff.mpr fun hbit => hn ((asserts_composeWith hr).mp hbit)
    rw [BitVec.getLsbD_and, unclaimed, Bool.and_false, BitVec.getLsbD_zero]
  · simp [hi]

/-- The masks of distinct names share no bit, so their OR is a sum without a carry. -/
theorem toNat_composeWith_of_nodup {r : Registry} (hr : Function.Injective r) {names : List Signal}
    (hnames : names.Nodup) : (composeWith r names).toNat = (names.map fun n => 2 ^ (r n).val).sum := by
  induction names with
  | nil => rfl
  | cons n names ih =>
    obtain ⟨hn, hrest⟩ := List.nodup_cons.mp hnames
    have disjoint := signalMask_and_composeWith hr hn
    calc (composeWith r (n :: names)).toNat
        = (signalMask r n + composeWith r names).toNat := by
          rw [composeWith_cons, BitVec.add_eq_or_of_and_eq_zero _ _ disjoint]
      _ = (signalMask r n).toNat + (composeWith r names).toNat := BitVec.toNat_add_of_and_eq_zero disjoint
      _ = ((n :: names).map fun n => 2 ^ (r n).val).sum := by simp [ih hrest]

/-- Settles O9: order and repeats leave the set of names as it is, and so does removing the repeats before the sum. -/
theorem compositionAssertsExactlyTheNamedSignals : Obligations.CompositionAssertsExactlyTheNamedSignals := by
  intro r hr names
  have hinj := Registry.injective_iff.mp hr
  refine ⟨fun n => asserts_composeWith hinj, fun names' hperm => ?order, fun n hn => ?twice, ?value⟩
  case order => exact composeWith_congr_mem r fun n => hperm.mem_iff.symm
  case twice => exact composeWith_congr_mem r (by simp [hn])
  case value =>
    rw [← toNat_composeWith_of_nodup hinj names.nodup_dedup]
    exact congrArg BitVec.toNat (composeWith_congr_mem r fun n => List.mem_dedup.symm)

end Sys2Proof.Machine
end

section
/-! PROOFS. The expanded variant table (R121 to R133): one assignment, the patches of one flag state, the walk over the
flag states, and from these the closed form of R127, from which the conditional jumps' entries are read. -/

namespace Sys2Proof.Machine

/-- Settles O18: both clauses are the branches of `entry_assignEntry`. -/
theorem assignmentChangesOneEntryOnly : Obligations.AssignmentChangesOneEntryOnly := by
  intro v f f' o o' s s' w
  constructor
  · rw [entry_assignEntry, if_pos ⟨rfl, rfl, rfl⟩]
  · intro hne
    rw [entry_assignEntry, if_neg]
    rintro ⟨rfl, rfl, rfl⟩
    exact hne rfl

theorem mem_flagStates (f : FlagState) : f ∈ flagStates := by
  rcases f with ⟨_ | _, _ | _⟩ <;> decide

theorem patched_iff {f : FlagState} {o : Opcode} {s : StepNo} :
    patched f o s = true ↔ s = 2 ∧ (o = 7 ∧ f.carry = true ∨ o = 8 ∧ f.zero = true) := by
  simp [patched, carryJumpTaken, zeroJumpTaken]

/-- What one assignment under a condition leaves in each entry (R121). -/
theorem entry_ite_assignEntry (c : Bool) (v : VariantTable) (f f' : FlagState) (o o' : Opcode) (s s' : StepNo)
    (w : CWord) :
    (if c = true then assignEntry v f o s w else v).entry f' o' s' =
      if c = true ∧ f' = f ∧ o' = o ∧ s' = s then w else v.entry f' o' s' := by
  cases c with
  | false => simp
  | true => simp [entry_assignEntry]

/-- The patches of a flag state reach its own variant only, and there the patched entries only (R122 to R124). -/
theorem entry_patchVariant (jw : CWord) (v : VariantTable) (f f' : FlagState) (o : Opcode) (s : StepNo) :
    (patchVariant jw v f).entry f' o s = if f' = f ∧ patched f o s = true then jw else v.entry f' o s := by
  simp only [patchVariant, entry_ite_assignEntry, ← ite_or]
  refine if_congr ?_ rfl rfl
  rw [patched_iff, carryJumpTaken, zeroJumpTaken]
  tauto

/-- Patching flag state after flag state leaves the patched entries of the visited variants at the jump word, and every
other entry as it was, in whatever order they are visited. -/
theorem entry_foldl_patchVariant (jw : CWord) (fs : List FlagState) (v : VariantTable) (f : FlagState) (o : Opcode)
    (s : StepNo) :
    (fs.foldl (patchVariant jw) v).entry f o s = if f ∈ fs ∧ patched f o s = true then jw else v.entry f o s := by
  induction fs generalizing v with
  | nil => simp
  | cons g fs ih =>
    rw [List.foldl_cons, ih, entry_patchVariant, ← ite_or]
    refine if_congr ?_ rfl rfl
    rcases eq_or_ne f g with rfl | hother
    · simp
    · simp [hother]

/-- The procedure of R121 gives the closed form of R127, over any jump word and base table. -/
theorem entry_expand (jw : CWord) (t : OpcodeTable) (f : FlagState) (o : Opcode) (s : StepNo) :
    (expand jw t).entry f o s = resolvedWith jw t f o s := by
  simp only [expand, entry_foldl_patchVariant, mem_flagStates, true_and, entry_copies, resolvedWith]

theorem entry_expand_carryJump (jw : CWord) (t : OpcodeTable) (f : FlagState) :
    (expand jw t).entry f 7 2 = if f.carry = true then jw else t.entry 7 2 := by
  simp [entry_expand, resolvedWith, patched_iff]

theorem entry_expand_zeroJump (jw : CWord) (t : OpcodeTable) (f : FlagState) :
    (expand jw t).entry f 8 2 = if f.zero = true then jw else t.entry 8 2 := by
  simp [entry_expand, resolvedWith, patched_iff]

/-- With both flags clear no condition holds, so nothing is patched (R131). -/
theorem entry_expand_flagsClear (jw : CWord) (t : OpcodeTable) (o : Opcode) (s : StepNo) :
    (expand jw t).entry ⟨false, false⟩ o s = t.entry o s := by
  simp [entry_expand, resolvedWith, patched_iff]

/-- A composed word with a name in it has that name's bit, in any registry. -/
theorem composeWith_ne_zero (r : Registry) {names : List Signal} {n : Signal} (hn : n ∈ names) :
    composeWith r names ≠ 0 := by
  intro hzero
  have hbit : (composeWith r names).getLsbD (r n).val = true := getLsbD_composeWith.mpr ⟨n, hn, rfl⟩
  rw [hzero] at hbit
  exact Bool.false_ne_true (BitVec.getLsbD_zero.symm.trans hbit)

theorem jumpWord_ne_zero (r : Registry) : composeWith r [.io, .j] ≠ 0 :=
  composeWith_ne_zero r List.mem_cons_self

/-- Settles O15: the entry's closed form, with B6 where it is the base's. -/
theorem carryJumpIsPatchedExactlyOnCarry : Obligations.CarryJumpIsPatchedExactlyOnCarry := by
  intro p _ hb6 f
  obtain ⟨hbase, _⟩ := (b6_iff p).mp hb6
  refine ⟨fun hset => ?_, fun hclear => ⟨?_, hbase⟩, jumpWord_ne_zero p.sig⟩
  · rw [entry_expand_carryJump, if_pos hset]
  · rw [entry_expand_carryJump, if_neg (Bool.eq_false_iff.mp hclear)]

/-- Settles O16: the entry's closed form, with B6 where it is the base's. -/
theorem zeroJumpIsPatchedExactlyOnZero : Obligations.ZeroJumpIsPatchedExactlyOnZero := by
  intro p _ hb6 f
  obtain ⟨_, hbase⟩ := (b6_iff p).mp hb6
  refine ⟨fun hset => ?_, fun hclear => ⟨?_, hbase⟩, jumpWord_ne_zero p.sig⟩
  · rw [entry_expand_zeroJump, if_pos hset]
  · rw [entry_expand_zeroJump, if_neg (Bool.eq_false_iff.mp hclear)]

/-- Settles O20: the first clause is O16 where Zero is clear. -/
theorem patchesAreIndependent : Obligations.PatchesAreIndependent := by
  intro p hsig hb6
  obtain ⟨_, zeroClear, _⟩ := zeroJumpIsPatchedExactlyOnZero p hsig hb6 ⟨false, true⟩
  obtain ⟨unpatched, hbase⟩ := zeroClear rfl
  exact ⟨unpatched.trans hbase, entry_expand_flagsClear _ p.base⟩

/-- Settles O21: O15 and O20 at the default parameters. -/
theorem conditionalJumpsAtCarryOnly : Obligations.ConditionalJumpsAtCarryOnly := by
  have hsig : defaultParameters.sig.wellFormed = true := by decide
  have hb6 : defaultParameters.b6 = true := by decide
  obtain ⟨carrySet, _⟩ := carryJumpIsPatchedExactlyOnCarry defaultParameters hsig hb6 ⟨false, true⟩
  obtain ⟨zeroJumpIdle, _⟩ := patchesAreIndependent defaultParameters hsig hb6
  exact ⟨carrySet rfl, zeroJumpIdle⟩

end Sys2Proof.Machine
end

section
/-! PROOFS. The image as a list of bytes (R141, R145): its length, the byte at each offset, and the zero upper half, which
the invariant gives at every step of the walk. -/

namespace Sys2Proof.Machine

@[simp] theorem length_imageBytes (m : Memory) : (imageBytes m).length = Config.imageSize := by
  simp [imageBytes]

@[simp] theorem getElem_imageBytes (m : Memory) (a : Nat) (ha : a < (imageBytes m).length) :
    (imageBytes m)[a] = Memory.read m a := by
  simp [imageBytes]

/-- The walk never passes 1024, so it has not reached the upper half in any phase (R143). -/
theorem BlockInv.read_upper {s : State} (hs : BlockInv s) {a : Nat} (ha : Config.decodeSize ≤ a) :
    Memory.read s.img a = 0 := by
  have not_passed : ¬ a < s.a := Nat.not_lt.mpr (hs.index_le.trans ha)
  rw [hs.written, if_neg not_passed]

/-- Settles O38: the length is that of the list itself, and a byte after the first 1024 is one of the upper half. -/
theorem imageHas2048BytesAndAZeroUpperHalf : Obligations.ImageHas2048BytesAndAZeroUpperHalf := by
  intro s hs _
  refine ⟨length_imageBytes s.img, fun b hb => ?_⟩
  obtain ⟨j, hj, rfl⟩ := List.mem_drop_iff_getElem.mp hb
  rw [getElem_imageBytes]
  exact hs.read_upper (Nat.le_add_right 1024 j)

end Sys2Proof.Machine
end

section
/-! PROOFS. Addresses and their fields (R50 to R55): the decoder's fields by division, encode and decode inverse to each
other, and through the opcode map the instructions in one-to-one correspondence with the decode domain. -/

namespace Sys2Proof

theorem encodeFields_eq_weightedSum (x : RomFields) :
    encodeFields x = 256 * x.f.number + 128 * x.b.number + 8 * x.o.val + x.s.val :=
  encodeNumbers_eq_weightedSum _ x.b.number_lt x.o.isLt x.s.isLt

theorem FlagState.number_ofNumber {n : Nat} (hn : n < 2 ^ 2) : (FlagState.ofNumber n).number = n := by
  interval_cases n <;> rfl

theorem ByteSelect.number_ofNumber {n : Nat} (hn : n < 2 ^ 1) : (ByteSelect.ofNumber n).number = n := by
  interval_cases n <;> rfl

/-! The shifts and masks of R51 as quotients and remainders. -/

theorem decodeFields_f (a : Nat) : (decodeFields a).f = FlagState.ofNumber (a / 2 ^ 8 % 2 ^ 2) := by
  rw [← Nat.shiftRight_eq_div_pow, ← Nat.and_two_pow_sub_one_eq_mod]
  rfl

theorem decodeFields_b (a : Nat) : (decodeFields a).b = ByteSelect.ofNumber (a / 2 ^ 7 % 2 ^ 1) := by
  rw [← Nat.shiftRight_eq_div_pow, ← Nat.and_two_pow_sub_one_eq_mod]
  rfl

theorem decodeFields_o (a : Nat) : (decodeFields a).o.val = a / 2 ^ 3 % 2 ^ 4 := by
  rw [← Nat.shiftRight_eq_div_pow, ← Nat.and_two_pow_sub_one_eq_mod]
  rfl

theorem decodeFields_s (a : Nat) : (decodeFields a).s.val = a % 2 ^ 3 :=
  Nat.and_two_pow_sub_one_eq_mod a 3

/-- Fields with the same numbers are the same fields. -/
theorem RomFields.eq_of_numbers {x y : RomFields} (hf : x.f.number = y.f.number) (hb : x.b.number = y.b.number)
    (ho : x.o.val = y.o.val) (hs : x.s.val = y.s.val) : x = y := by
  obtain ⟨f, b, o, s⟩ := x
  obtain ⟨f', b', o', s'⟩ := y
  obtain rfl : f = f' := by rw [← f.ofNumber_number, hf, f'.ofNumber_number]
  obtain rfl : b = b' := by rw [← b.ofNumber_number, hb, b'.ofNumber_number]
  obtain rfl := Fin.ext ho
  obtain rfl := Fin.ext hs
  rfl

/-- An address that is a weighted sum of numbers in range decodes to them. -/
theorem decodeFields_weightedSum {f b o s : Nat} (hf : f < 4) (hb : b < 2) (ho : o < 16) (hs : s < 8) :
    decodeFields (256 * f + 128 * b + 8 * o + s) = ⟨.ofNumber f, .ofNumber b, ⟨o, ho⟩, ⟨s, hs⟩⟩ := by
  refine RomFields.eq_of_numbers ?_ ?_ ?_ ?_
  · rw [decodeFields_f]; congr 2; omega
  · rw [decodeFields_b]; congr 2; omega
  · rw [decodeFields_o]; dsimp only; omega
  · rw [decodeFields_s]; dsimp only; omega

@[simp] theorem decodeFields_encodeFields (x : RomFields) : decodeFields (encodeFields x) = x := by
  rw [encodeFields_eq_weightedSum, decodeFields_weightedSum x.f.number_lt x.b.number_lt x.o.isLt x.s.isLt]
  simp

theorem encodeFields_decodeFields {a : Nat} (ha : a < Config.decodeSize) : encodeFields (decodeFields a) = a := by
  rw [encodeFields_eq_weightedSum, decodeFields_f, decodeFields_b, decodeFields_o, decodeFields_s,
    FlagState.number_ofNumber (Nat.mod_lt _ (by decide)), ByteSelect.number_ofNumber (Nat.mod_lt _ (by decide))]
  simp only [Config.decodeSize] at ha
  omega

theorem decodeAddress_of_lt {a : Nat} (ha : a < Config.decodeSize) : decodeAddress a = .ok (decodeFields a) :=
  if_pos ha

theorem decodeAddress_of_ge {a : Nat} (ha : Config.decodeSize ≤ a) :
    decodeAddress a = .error (.outsideDecodeDomain a) :=
  if_neg (Nat.not_lt.mpr ha)

/-- The rows of the opcode map are told apart by the opcode and, for JC and JZ, the flag that splits them (R61). -/
theorem instrOfFields_fieldsOfInstr (i : Instr) : instrOfFields (fieldsOfInstr i) = i := by
  cases i <;> rfl

theorem fieldsOfInstr_instrOfFields (x : RomFields) : fieldsOfInstr (instrOfFields x) = x := by
  obtain ⟨⟨zero, carry⟩, b, o, s⟩ := x
  fin_cases o <;> cases zero <;> cases carry <;> rfl

/-- The decoder gives an instruction at that instruction's address, and nowhere else. -/
theorem decode_eq_ok {a : Nat} {i : Instr} : decode a = .ok i ↔ a = encode i := by
  constructor
  · intro hdecode
    by_cases ha : a < Config.decodeSize
    · rw [decode, decodeAddress_of_lt ha] at hdecode
      obtain rfl := Except.ok.inj hdecode
      rw [encode, fieldsOfInstr_instrOfFields, encodeFields_decodeFields ha]
    · rw [decode, decodeAddress_of_ge (Nat.le_of_not_lt ha)] at hdecode
      cases hdecode
  · rintro rfl
    rw [decode, decodeAddress_of_lt (encode_lt i), encode, decodeFields_encodeFields, Except.map,
      instrOfFields_fieldsOfInstr]

theorem exists_encode_eq {a : Nat} (ha : a < Config.decodeSize) : ∃ i, a = encode i :=
  ⟨instrOfFields (decodeFields a), by rw [encode, fieldsOfInstr_instrOfFields, encodeFields_decodeFields ha]⟩

theorem decode_eq_error {a : Nat} (ha : Config.decodeSize ≤ a) : decode a = .error (.outsideDecodeDomain a) := by
  rw [decode, decodeAddress_of_ge ha, Except.map]

/-- Settles O1: the decoder answers exactly at the address of the instruction. -/
theorem decodeOfEncodeIsTheInstruction : Obligations.DecodeOfEncodeIsTheInstruction :=
  fun _ => decode_eq_ok.mpr rfl

/-- Settles O2: `encodeFields` and `decodeFields` are inverse to each other on the decode domain. -/
theorem addressRoundTrip : Obligations.AddressRoundTrip := by
  refine ⟨fun a ha => ⟨decodeFields a, decodeAddress_of_lt ha, encodeFields_decodeFields ha⟩, fun x => ?_⟩
  rw [decodeAddress_of_lt (encodeFields_lt x), decodeFields_encodeFields]

/-! The fields of an address as its bits (R50). -/

/-- Zero is address bit 9 and Carry bit 8 (D5). -/
theorem decodeFields_f_eq_testBit (a : Nat) : (decodeFields a).f = ⟨a.testBit 9, a.testBit 8⟩ := by
  rw [decodeFields_f, FlagState.ofNumber, Nat.testBit_mod_two_pow, Nat.testBit_mod_two_pow, Nat.testBit_div_two_pow,
    Nat.testBit_div_two_pow]
  rfl

theorem decodeFields_b_number (a : Nat) : (decodeFields a).b.number = (a.testBit 7).toNat := by
  rw [decodeFields_b, ByteSelect.number_ofNumber (Nat.mod_lt _ (by decide)), Nat.toNat_testBit]
  rfl

theorem decodeFields_o_testBit (a : Nat) {i : Nat} (hi : i < 4) :
    (decodeFields a).o.val.testBit i = a.testBit (3 + i) := by
  rw [decodeFields_o, Nat.testBit_mod_two_pow, Nat.testBit_div_two_pow, decide_eq_true hi, Bool.true_and, Nat.add_comm]

theorem decodeFields_s_testBit (a : Nat) {i : Nat} (hi : i < 3) : (decodeFields a).s.val.testBit i = a.testBit i := by
  rw [decodeFields_s, Nat.testBit_mod_two_pow, decide_eq_true hi, Bool.true_and]

/-- Settles O4: each field is read off its own bits of the address. -/
theorem addressFieldsLieWhereTheLayoutPutsThem : Obligations.AddressFieldsLieWhereTheLayoutPutsThem := by
  intro a ha
  have flags := decodeFields_f_eq_testBit a
  exact ⟨decodeFields a, decodeAddress_of_lt ha, congrArg FlagState.zero flags, congrArg FlagState.carry flags,
    decodeFields_b_number a, fun _ => decodeFields_o_testBit a, fun _ => decodeFields_s_testBit a⟩

/-- Settles O5: below 1024 every address is the address of an instruction. -/
theorem decodeHasAValueExactlyInItsDomain : Obligations.DecodeHasAValueExactlyInItsDomain := by
  refine fun a => ⟨fun ha => ?_, decode_eq_error⟩
  obtain ⟨i, hi⟩ := exists_encode_eq ha
  exact ⟨i, decode_eq_ok.mpr hi⟩

/-- Settles O7: each address is that of its instruction, and the last one lies above the domain. -/
theorem sampleAddressesDecode : Obligations.SampleAddressesDecode := by
  unfold Obligations.SampleAddressesDecode
  decide

end Sys2Proof
end

section
/-! PROOFS. The opcode table (30_encoding.md §6): its masks reach the flag and the opcode bits alone, so which rows cover
an address is settled by its flag state and its opcode. -/

namespace Sys2Proof

/-- The address bits that some row of the table fixes: the flags and the opcode. -/
def rowBits : Nat := 0x378

theorem mask_within_rowBits {r : OpcodeRow} (hr : r ∈ opcodeRows) : rowBits &&& r.mask = r.mask := by
  revert r
  decide

theorem encodeFields_and_rowBits (x : RomFields) :
    encodeFields x &&& rowBits = encodeFields ⟨x.f, .high, x.o, 0⟩ := by
  obtain ⟨⟨zero, carry⟩, b, o, s⟩ := x
  have step_dropped : s.val &&& rowBits = 0 := by revert s; decide
  have opcode_kept : o.val <<< 3 &&& rowBits = o.val <<< 3 := by revert o; decide
  have byteSelect_dropped : b.number <<< 7 &&& rowBits = 0 := by cases b <;> rfl
  have flags_kept : FlagState.number ⟨zero, carry⟩ <<< 8 &&& rowBits = FlagState.number ⟨zero, carry⟩ <<< 8 := by
    cases zero <;> cases carry <;> rfl
  simp only [encodeFields, encodeNumbers, Nat.and_or_distrib_right, step_dropped, opcode_kept, byteSelect_dropped,
    flags_kept]
  rfl

/-- A row covers an address exactly when it covers the first address with the same flag state and opcode. -/
theorem covers_encodeFields {r : OpcodeRow} (hr : r ∈ opcodeRows) (x : RomFields) :
    r.covers (encodeFields x) = r.covers (encodeFields ⟨x.f, .high, x.o, 0⟩) := by
  rw [← encodeFields_and_rowBits, OpcodeRow.covers, OpcodeRow.covers, Nat.and_assoc, mask_within_rowBits hr]

theorem one_row_covers (f : FlagState) (o : Opcode) :
    (opcodeRows.filter fun r => r.covers (encodeFields ⟨f, .high, o, 0⟩)).length = 1 := by
  rcases f with ⟨_ | _, _ | _⟩ <;> revert o <;> decide

/-- The row of an instruction covers its address, and stands in the table. -/
theorem rowOfInstr_covers (i : Instr) : Laws.RowAgreement.Statement i := by
  cases i with
  | nop => apply Laws.RowAgreement.nop
  | lda => apply Laws.RowAgreement.lda
  | add => apply Laws.RowAgreement.add
  | sub => apply Laws.RowAgreement.sub
  | sta => apply Laws.RowAgreement.sta
  | ldi => apply Laws.RowAgreement.ldi
  | jmp => apply Laws.RowAgreement.jmp
  | jcNotTaken => apply Laws.RowAgreement.jcNotTaken
  | jcTaken => apply Laws.RowAgreement.jcTaken
  | jzNotTaken => apply Laws.RowAgreement.jzNotTaken
  | jzTaken => apply Laws.RowAgreement.jzTaken
  | und9 => apply Laws.RowAgreement.und9
  | und10 => apply Laws.RowAgreement.und10
  | und11 => apply Laws.RowAgreement.und11
  | und12 => apply Laws.RowAgreement.und12
  | und13 => apply Laws.RowAgreement.und13
  | out => apply Laws.RowAgreement.out
  | hlt => apply Laws.RowAgreement.hlt

/-- Settles O6: one row for each flag state and opcode, and the row of the instruction at the address is that one. -/
theorem everyAddressMatchesItsOneRow : Obligations.EveryAddressMatchesItsOneRow := by
  intro a ha
  obtain ⟨i, rfl⟩ := exists_encode_eq ha
  obtain ⟨covered, listed⟩ := rowOfInstr_covers i
  refine ⟨?_, i, decode_eq_ok.mpr rfl, covered, listed⟩
  rw [encode, List.filter_congr fun r hr => covers_encodeFields hr (fieldsOfInstr i)]
  exact one_row_covers _ _

end Sys2Proof
end

section
/-! PROOFS. The expansion read through its closed form (R125 to R134): an unpatched entry is the base table's, and a
patched one lies at step 2 of a conditional jump. -/

namespace Sys2Proof.Machine

/-- Settles O14: the closed form of R127, its one patch condition told apart by opcode. -/
theorem expandedTableHasTheClosedForm : Obligations.ExpandedTableHasTheClosedForm := by
  intro jw t f o s
  rw [entry_expand, resolvedWith, ← ite_or]
  refine if_congr ?_ rfl rfl
  rw [patched_iff]
  tauto

/-- Step 2 of a conditional jump is the only place a patch can lie, whatever the flag state. -/
theorem step_and_opcode_of_patched {f : FlagState} {o : Opcode} {s : StepNo} (h : patched f o s = true) :
    (o = 7 ∨ o = 8) ∧ s = 2 := by
  obtain ⟨hs, ⟨ho, _⟩ | ⟨ho, _⟩⟩ := patched_iff.mp h
  · exact ⟨.inl ho, hs⟩
  · exact ⟨.inr ho, hs⟩

theorem resolvedWith_of_not_patched (jw : CWord) (t : OpcodeTable) {f : FlagState} {o : Opcode} {s : StepNo}
    (h : ¬ patched f o s = true) : resolvedWith jw t f o s = t.entry o s :=
  if_neg h

/-- B6 makes every patched entry the zero word in the base table (R96). -/
theorem base_entry_of_patched {p : TableParameters} (hb6 : p.b6 = true) {f : FlagState} {o : Opcode} {s : StepNo}
    (h : patched f o s = true) : p.base.entry o s = 0 := by
  obtain ⟨carryJump_zero, zeroJump_zero⟩ := (b6_iff p).mp hb6
  obtain ⟨rfl | rfl, rfl⟩ := step_and_opcode_of_patched h
  · exact carryJump_zero
  · exact zeroJump_zero

/-- An entry differs from the base table's exactly where it is patched: there the jump word replaces a zero word. -/
theorem entry_expand_ne_base_iff {p : TableParameters} (hb6 : p.b6 = true) (f : FlagState) (o : Opcode) (s : StepNo) :
    (expand (composeWith p.sig [.io, .j]) p.base).entry f o s ≠ p.base.entry o s ↔ patched f o s = true := by
  rw [entry_expand, resolvedWith]
  by_cases h : patched f o s = true
  · rw [if_pos h, base_entry_of_patched hb6 h]
    exact iff_of_true (jumpWord_ne_zero p.sig) h
  · rw [if_neg h]
    exact iff_of_false (not_not_intro rfl) h

/-- Settles O17: the patch condition, flag state by flag state. -/
theorem exactlyFourEntriesArePatched : Obligations.ExactlyFourEntriesArePatched := by
  intro p _ hb6 f o s
  rw [entry_expand_ne_base_iff hb6, patched_iff]
  rcases f with ⟨_ | _, _ | _⟩ <;> simp <;> tauto

theorem entry_expand_of_step_ne_two (jw : CWord) (t : OpcodeTable) (f : FlagState) (o : Opcode) {s : StepNo}
    (hs : s ≠ 2) : (expand jw t).entry f o s = t.entry o s := by
  rw [entry_expand, resolvedWith_of_not_patched]
  exact fun h => hs (step_and_opcode_of_patched h).right

/-- Settles O19: no patch lies at the steps 0 and 1, and an admissible table has the two fetch words there. -/
theorem fetchPrologueIsUniversal : Obligations.FetchPrologueIsUniversal := by
  have prologue (jw : CWord) (t : OpcodeTable) (w0 w1 : CWord) (h0 : ∀ o, t.entry o 0 = w0)
      (h1 : ∀ o, t.entry o 1 = w1) (f : FlagState) (o : Opcode) :
      (expand jw t).entry f o 0 = w0 ∧ (expand jw t).entry f o 1 = w1 := by
    rw [entry_expand_of_step_ne_two jw t f o (by decide), entry_expand_of_step_ne_two jw t f o (by decide)]
    exact ⟨h0 o, h1 o⟩
  refine ⟨prologue, fun p hp jw f o => ?_⟩
  obtain ⟨_, hb2, hb3, _⟩ := (admissible_iff p).mp hp
  exact prologue jw p.base p.fetch0 p.fetch1 hb2 hb3 f o

/-- The shared table of R134 holds the jump word at step 2 of JC in every flag state. -/
theorem entry_aliasedTable_carryJump (jw : CWord) (t : OpcodeTable) (f : FlagState) :
    (aliasedTable jw t).entry f 7 2 = jw := by
  simp [aliasedTable, VariantTable.entry, OpcodeTable.entry]

/-- Settles O22: where both flags are clear the expansion keeps the zero word of B6, and the shared table has the jump
word. -/
theorem aliasedTableIsNotTheExpansion : Obligations.AliasedTableIsNotTheExpansion := by
  intro p q _ hb6 jw
  obtain ⟨hbase, _⟩ := (b6_iff q).mp hb6
  have differs : (aliasedTable (composeWith p.sig [.io, .j]) p.base).entry ⟨false, false⟩ 7 2 ≠
      (expand jw q.base).entry ⟨false, false⟩ 7 2 := by
    rw [entry_aliasedTable_carryJump, entry_expand_flagsClear, hbase]
    exact jumpWord_ne_zero p.sig
  exact ⟨differs, fun same => differs (congrArg (VariantTable.entry · _ _ _) same)⟩

end Sys2Proof.Machine
end

section
/-! PROOFS. Control words as halves, and the signals of the default table (R58, R74 to R89, R186, R187). -/

namespace Sys2Proof.Machine

theorem getLsbD_hi8 (w : CWord) {i : Nat} (hi : i < 8) : (hi8 w).getLsbD i = w.getLsbD (i + 8) := by
  simp [hi8, hi, Nat.add_comm]

theorem getLsbD_lo8 (w : CWord) {i : Nat} (hi : i < 8) : (lo8 w).getLsbD i = w.getLsbD i := by
  simp [lo8, hi]

/-- A bit below 8 comes from the low byte, any other from the high byte. -/
@[simp] theorem joinHalves_hi8_lo8 (w : CWord) : joinHalves (hi8 w) (lo8 w) = w := by
  refine BitVec.eq_of_getLsbD_eq fun i hi => ?_
  rw [joinHalves, BitVec.getLsbD_or, BitVec.getLsbD_shiftLeft, BitVec.getLsbD_setWidth, BitVec.getLsbD_setWidth]
  by_cases low : i < 8
  · rw [getLsbD_lo8 w low]
    simp [low, hi]
  · have high : i - 8 < 8 := by omega
    rw [getLsbD_hi8 w high, BitVec.getLsbD_of_ge (lo8 w) i (Nat.le_of_not_lt low), Nat.sub_add_cancel (by omega)]
    simp [low, hi]
    omega

/-- Settles O10: the halves joined, and each half bit by bit. -/
theorem halvesOfAWordLoseNothing : Obligations.HalvesOfAWordLoseNothing :=
  fun w => ⟨joinHalves_hi8_lo8 w, fun _ hi => ⟨getLsbD_hi8 w hi, getLsbD_lo8 w hi⟩⟩

theorem base_b6 : defaultParameters.b6 = true := by decide

/-- A resolved word asserts a signal because it is patched with the jump word, or because its base word does: a patched
base word asserts nothing (B6). -/
theorem asserts_resolved_iff (f : FlagState) (o : Opcode) (k : StepNo) (n : Signal) :
    asserts sig (resolved f o k) n = true ↔
      patched f o k = true ∧ (n = .io ∨ n = .j) ∨ asserts sig (base.entry o k) n = true := by
  have jumpWord_signals : asserts sig jumpWord n = true ↔ n = .io ∨ n = .j :=
    (asserts_composeWith (Registry.injective_iff.mp (by decide))).trans (by simp)
  rw [resolved, resolvedWith]
  by_cases h : patched f o k = true
  · have inert : base.entry o k = 0 := base_entry_of_patched (p := defaultParameters) base_b6 h
    have silent : ¬ asserts sig 0 n = true := by simp [asserts]
    rw [if_pos h, inert, jumpWord_signals]
    tauto
  · rw [if_neg h]
    tauto

theorem asserts_base_highByte (o : Opcode) (k : StepNo) :
    (asserts sig (base.entry o k) .hlt = true ↔ o = 15 ∧ k = 2) ∧
    (asserts sig (base.entry o k) .mi = true ↔ k = 0 ∨ (o = 1 ∨ o = 2 ∨ o = 3 ∨ o = 4) ∧ k = 2) ∧
    (asserts sig (base.entry o k) .ri = true ↔ o = 4 ∧ k = 3) ∧
    (asserts sig (base.entry o k) .ro = true ↔ k = 1 ∨ (o = 1 ∨ o = 2 ∨ o = 3) ∧ k = 3) ∧
    (asserts sig (base.entry o k) .io = true ↔ k = 2 ∧ (o = 1 ∨ o = 2 ∨ o = 3 ∨ o = 4 ∨ o = 5 ∨ o = 6)) ∧
    (asserts sig (base.entry o k) .ii = true ↔ k = 1) ∧
    (asserts sig (base.entry o k) .ai = true ↔ o = 1 ∧ k = 3 ∨ (o = 2 ∨ o = 3) ∧ k = 4 ∨ o = 5 ∧ k = 2) ∧
    (asserts sig (base.entry o k) .ao = true ↔ o = 4 ∧ k = 3 ∨ o = 14 ∧ k = 2) := by
  revert o k
  decide

theorem asserts_base_lowByte (o : Opcode) (k : StepNo) :
    (asserts sig (base.entry o k) .eo = true ↔ (o = 2 ∨ o = 3) ∧ k = 4) ∧
    (asserts sig (base.entry o k) .su = true ↔ o = 3 ∧ k = 4) ∧
    (asserts sig (base.entry o k) .bi = true ↔ (o = 2 ∨ o = 3) ∧ k = 3) ∧
    (asserts sig (base.entry o k) .oi = true ↔ o = 14 ∧ k = 2) ∧
    (asserts sig (base.entry o k) .ce = true ↔ k = 1) ∧
    (asserts sig (base.entry o k) .co = true ↔ k = 0) ∧
    (asserts sig (base.entry o k) .j = true ↔ k = 2 ∧ o = 6) ∧
    (asserts sig (base.entry o k) .fi = true ↔ (o = 2 ∨ o = 3) ∧ k = 4) := by
  revert o k
  decide

/-- The patches assert IO and J alone, so every other signal is where the base table has it. -/
theorem asserts_resolved_of_not_jump (f : FlagState) (o : Opcode) (k : StepNo) (n : Signal)
    (hn : n ≠ .io ∧ n ≠ .j := by decide) :
    asserts sig (resolved f o k) n = true ↔ asserts sig (base.entry o k) n = true := by
  simp [asserts_resolved_iff, hn]

/-- Settles O11: the base table's signals, and IO at the patched entries too. -/
theorem highByteSignalsAreAssertedWhereTheirRulesSay : Obligations.HighByteSignalsAreAssertedWhereTheirRulesSay := by
  intro f o k
  obtain ⟨hlt, mi, ri, ro, io, ii, ai, ao⟩ := asserts_base_highByte o k
  refine ⟨(asserts_resolved_of_not_jump f o k .hlt).trans hlt,
    (asserts_resolved_of_not_jump f o k .mi).trans mi,
    (asserts_resolved_of_not_jump f o k .ri).trans ri,
    (asserts_resolved_of_not_jump f o k .ro).trans ro,
    ?io,
    (asserts_resolved_of_not_jump f o k .ii).trans ii,
    (asserts_resolved_of_not_jump f o k .ai).trans ai,
    (asserts_resolved_of_not_jump f o k .ao).trans ao⟩
  case io =>
    rw [asserts_resolved_iff, patched_iff, io]
    simp only [true_or, and_true, ← and_or_left, or_assoc, or_comm (b := o = 1 ∨ _)]

/-- Settles O12: the base table's signals, and J at the patched entries too. -/
theorem lowByteSignalsAreAssertedWhereTheirRulesSay : Obligations.LowByteSignalsAreAssertedWhereTheirRulesSay := by
  intro f o k
  obtain ⟨eo, su, bi, oi, ce, co, j, fi⟩ := asserts_base_lowByte o k
  refine ⟨(asserts_resolved_of_not_jump f o k .eo).trans eo,
    (asserts_resolved_of_not_jump f o k .su).trans su,
    (asserts_resolved_of_not_jump f o k .bi).trans bi,
    (asserts_resolved_of_not_jump f o k .oi).trans oi,
    (asserts_resolved_of_not_jump f o k .ce).trans ce,
    (asserts_resolved_of_not_jump f o k .co).trans co,
    ?j,
    (asserts_resolved_of_not_jump f o k .fi).trans fi⟩
  case j =>
    rw [asserts_resolved_iff, patched_iff, j]
    simp only [or_true, and_true, ← and_or_left, or_comm (b := o = 6)]

/-- The flag latch is asserted at step 4 of ADD and SUB alone (R89). -/
theorem latchesFlags_resolved_iff (f : FlagState) (o : Opcode) (k : StepNo) :
    latchesFlags (resolved f o k) = true ↔ (o = 2 ∨ o = 3) ∧ k = 4 := by
  obtain ⟨_, _, _, _, _, _, _, fi⟩ := lowByteSignalsAreAssertedWhereTheirRulesSay f o k
  exact fi

/-- Away from step 2 of JC and JZ the default table does not depend on the flag state. -/
theorem resolved_eq_base (f : FlagState) {o : Opcode} {k : StepNo} (h : ¬ ((o = 7 ∨ o = 8) ∧ k = 2)) :
    resolved f o k = base.entry o k :=
  resolvedWith_of_not_patched _ _ fun hp => h (step_and_opcode_of_patched hp)

/-- Settles O23: an entry that varies with the flags belongs to JC or JZ, and neither asserts the latch at any step. -/
theorem noLatchAtOrBeforeAFlagDependentStep : Obligations.NoLatchAtOrBeforeAFlagDependentStep := by
  intro f f' g o k j varies _
  have conditional_jump : (o = 7 ∨ o = 8) ∧ k = 2 := by
    by_contra h
    exact varies ((resolved_eq_base f h).trans (resolved_eq_base f' h).symm)
  obtain ⟨jump, _⟩ := conditional_jump
  rw [Bool.eq_false_iff, Ne, latchesFlags_resolved_iff]
  rintro ⟨arithmetic, _⟩
  rcases jump with rfl | rfl <;> simp at arithmetic

/-- Settles O24: both halves are those of the base table's word. -/
theorem mixedHalvesDifferOnlyAtConditionalJumps : Obligations.MixedHalvesDifferOnlyAtConditionalJumps := by
  intro f f' o k h
  rw [resolved_eq_base f h, resolved_eq_base f' h]
  exact ⟨joinHalves_hi8_lo8 _, joinHalves_hi8_lo8 _⟩

theorem default_admissible : defaultParameters.admissible = true := by decide +kernel

/-- Settles O13: the tables are concrete, so each check is evaluated on them. -/
theorem defaultTablesAreAdmissible : Obligations.DefaultTablesAreAdmissible := by
  have used_steps : ∀ (o : Opcode) (k : StepNo),
      (base.entry o k = 0 ↔ microLength o ≤ k.val) ∧ microLength o ≤ 5 := by decide
  exact ⟨default_admissible, used_steps⟩

end Sys2Proof.Machine
end

section
/-! PROOFS. The moves of the block: the equation of a step in each outcome and phase, and the one inversion from which the
invariants follow. -/

namespace Sys2Proof.Machine

/-- The byte one iteration of the walk writes at an address (R141). -/
def walkByte (v : VariantTable) (a : Nat) : Byte :=
  halfOf (decodeFields a).b (v.entry (decodeFields a).f (decodeFields a).o (decodeFields a).s)

/-- The items one iteration of the walk adds to the trace (R140). -/
def walkItems (v : VariantTable) (a : Nat) : List TraceItem :=
  traceItemsOf a (decodeFields a) (v.entry (decodeFields a).f (decodeFields a).o (decodeFields a).s)

/-- The state after one iteration of the walk (R140, R141): `renderIteration_eq_next` ties it to the model. -/
def afterIteration (v : VariantTable) (s : State) : State :=
  ((s.setImg (Memory.write s.img s.a (walkByte v s.a))).setTrace (s.trace ++ walkItems v s.a)).setA (s.a + 1)

theorem renderIteration_eq_next (v : VariantTable) {s : State} (ha : s.a < Config.decodeSize) :
    renderIteration v s = .next (afterIteration v s) :=
  renderIteration_eq v s ha

theorem renderStep_of_lt {s : State} {v : VariantTable} (hv : s.vt = some v) (ha : s.a < Config.decodeSize) :
    renderStep s = .next (afterIteration v s) := by
  rw [renderStep, if_pos ha, hv]
  exact renderIteration_eq_next v ha

theorem renderStep_of_ge {s : State} (ha : Config.decodeSize ≤ s.a) : renderStep s = .next (s.setPhase .emit) :=
  if_neg (Nat.not_lt.mpr ha)

theorem blockStep_of_running {s : State} (ho : s.outcome = .running) : blockStep s = generatorStep s := by
  rw [blockStep, ho]

theorem blockStep_of_failed {s : State} (ho : s.outcome = .fault .ioFailure) : blockStep s = .fault .ioFailure := by
  rw [blockStep, ho]

/-- Whatever the port holds, an instruction's address or one of the upper half, the step reads the ROM there. -/
theorem romStep_eq_romRead (s : State) : romStep s = romRead s.port.toNat s := by
  rw [romStep, presentedInstr]
  cases hdecode : decode s.port.toNat with
  | ok i => rw [decode_eq_ok.mp hdecode]; exact exec_eq_romRead i s
  | error _ => rfl

theorem blockStep_of_done {s : State} (ho : s.outcome = .done) : blockStep s = romRead s.port.toNat s := by
  rw [blockStep, ho, ← romStep_eq_romRead]

section Phases
variable {s : State}

theorem generatorStep_constants (hp : s.phase = .constants) : generatorStep s = .next (s.setPhase .expand) := by
  rw [generatorStep, hp]

theorem generatorStep_expand (hp : s.phase = .expand) : generatorStep s = .next (expandStep s) := by
  rw [generatorStep, hp]

theorem generatorStep_zeroFill (hp : s.phase = .zeroFill) : generatorStep s = .next (beginRender s) := by
  rw [generatorStep, hp]

theorem generatorStep_render (hp : s.phase = .render) : generatorStep s = renderStep s := by
  rw [generatorStep, hp]

theorem generatorStep_emit (hp : s.phase = .emit) : generatorStep s = .next (emit s) := by
  rw [generatorStep, hp]

end Phases

theorem step_of_blockStep {s u : State} (h : blockStep s = .next u) : step s = .next (presentAddress u) :=
  step_eq_next.mpr ⟨u, h, rfl⟩

/-- What the block can do in one move, each with the outcome and the phase it happens in (R25, R27). -/
inductive Move (s : State) : State → Prop
  | leaveConstants (ho : s.outcome = .running) (hp : s.phase = .constants) : Move s (s.setPhase .expand)
  | expandTable (ho : s.outcome = .running) (hp : s.phase = .expand) : Move s (expandStep s)
  | zeroFill (ho : s.outcome = .running) (hp : s.phase = .zeroFill) : Move s (beginRender s)
  | iterate (ho : s.outcome = .running) (hp : s.phase = .render) (v : VariantTable) (hv : s.vt = some v)
      (ha : s.a < Config.decodeSize) : Move s (afterIteration v s)
  | endWalk (ho : s.outcome = .running) (hp : s.phase = .render) (ha : Config.decodeSize ≤ s.a) :
      Move s (s.setPhase .emit)
  | emit (ho : s.outcome = .running) (hp : s.phase = .emit) (stored : Bool) (leftover : Option (List Byte)) :
      Move s (emitWith stored leftover s)
  | read (ho : s.outcome = .done) (hp : s.phase = .emit) (d : Byte) : Move s (s.setData d)

/-- A move that answers is one of the seven. -/
theorem move_of_blockStep {s u : State} (h : blockStep s = .next u) : Move s u := by
  obtain ⟨ho, hp, rfl⟩ | ⟨ho, hp, rfl⟩ | ⟨ho, hp, rfl⟩ | ⟨ho, hp, hrender⟩ | ⟨ho, hp, rfl⟩ | ⟨ho, hp, d, rfl⟩ :=
    blockStep_next h
  · exact .leaveConstants ho hp
  · exact .expandTable ho hp
  · exact .zeroFill ho hp
  · obtain ⟨v, ha, hv, hiteration⟩ | ⟨ha, rfl⟩ := renderStep_eq_next.mp hrender
    · obtain rfl := Host.Outcome.next.inj ((renderIteration_eq_next v ha).symm.trans hiteration)
      exact .iterate ho hp v hv ha
    · exact .endWalk ho hp ha
  · exact .emit ho hp _ _
  · exact .read ho hp d

theorem move_of_step {s t : State} (h : step s = .next t) : ∃ u, Move s u ∧ t = presentAddress u := by
  obtain ⟨u, hu, ht⟩ := step_eq_next.mp h
  exact ⟨u, move_of_blockStep hu, ht⟩

/-- A move leaves the image, empties it, or writes one byte below 1024. -/
theorem Move.img_cases {s u : State} (h : Move s u) :
    u.img = s.img ∨ u.img = [] ∨ s.a < Config.decodeSize ∧ ∃ byte, u.img = Memory.write s.img s.a byte := by
  cases h with
  | leaveConstants | expandTable | endWalk | read => exact .inl rfl
  | zeroFill => exact .inr (.inl rfl)
  | iterate _ _ v _ ha => exact .inr (.inr ⟨ha, _, rfl⟩)
  | emit _ _ stored => cases stored <;> exact .inl rfl

/-- Settles O28: the empty image is canonical, and a write below 1024 keeps the form. -/
theorem everyStepKeepsTheCanonicalForm : Obligations.EveryStepKeepsTheCanonicalForm := by
  intro s t canonical h
  obtain ⟨u, hu, rfl⟩ := move_of_step h
  rw [presentAddress_img]
  obtain himg | himg | ⟨ha, byte, himg⟩ := hu.img_cases
  · rwa [himg]
  · rw [himg, Memory.wf_nil]
  · rw [himg]
    exact Memory.wf_write canonical byte (ha.trans (by decide))

/-- In the last phase a move leaves all that the walk made, and the phase. -/
theorem Move.frame_of_emit {s u : State} (h : Move s u) (hp : s.phase = .emit) :
    u.img = s.img ∧ u.trace = s.trace ∧ u.a = s.a ∧ u.vt = s.vt ∧ u.phase = .emit := by
  cases h with
  | leaveConstants _ hp' | expandTable _ hp' | zeroFill _ hp' | iterate _ hp' | endWalk _ hp' =>
    cases hp.symm.trans hp'
  | emit _ _ stored => cases stored <;> exact ⟨rfl, rfl, rfl, rfl, hp⟩
  | read => exact ⟨rfl, rfl, rfl, rfl, hp⟩

/-- Only emit changes OUTCOME. -/
theorem Move.outcome_cases {s u : State} (h : Move s u) :
    u.outcome = s.outcome ∨ s.outcome = .running ∧ s.phase = .emit ∧ u.outcome ≠ .running := by
  cases h with
  | leaveConstants | expandTable | zeroFill | iterate | endWalk | read => exact .inl rfl
  | emit ho hp stored => cases stored <;> exact .inr ⟨ho, hp, nofun⟩

/-- A move stays in its phase, in the walk and after it, or passes to the next one (R25). -/
theorem Move.phase_cases {s u : State} (h : Move s u) :
    (u.phase = s.phase ∧ (s.phase = .render ∨ s.phase = .emit)) ∨
      (s.phase = .constants ∧ u.phase = .expand) ∨ (s.phase = .expand ∧ u.phase = .zeroFill) ∨
      (s.phase = .zeroFill ∧ u.phase = .render) ∨ (s.phase = .render ∧ u.phase = .emit) := by
  cases h with
  | leaveConstants _ hp => exact .inr (.inl ⟨hp, rfl⟩)
  | expandTable _ hp => exact .inr (.inr (.inl ⟨hp, rfl⟩))
  | zeroFill _ hp => exact .inr (.inr (.inr (.inl ⟨hp, rfl⟩)))
  | iterate _ hp => exact .inl ⟨rfl, .inl hp⟩
  | endWalk _ hp => exact .inr (.inr (.inr (.inr ⟨hp, rfl⟩)))
  | emit _ hp stored => cases stored <;> exact .inl ⟨rfl, .inr hp⟩
  | read _ hp => exact .inl ⟨rfl, .inr hp⟩

/-- Settles O36: the phase, the outcome and the image of a move, each said above. -/
theorem phasesPassOnceInOrder : Obligations.PhasesPassOnceInOrder := by
  intro s t h
  obtain ⟨u, hu, rfl⟩ := move_of_step h
  refine ⟨hu.phase_cases, fun changed => ?_, fun hp => ?_⟩
  · obtain same | ⟨ho, hp, _⟩ := hu.outcome_cases
    · exact absurd same changed
    · exact ⟨ho, hp⟩
  · obtain ⟨himg, htrace, ha, hvt, _⟩ := hu.frame_of_emit hp
    exact ⟨himg, htrace, ha, hvt⟩

/-- Settles O30: the phase's equation, and the environment's move after it. -/
theorem generatorPhasesTakeTheirEffect : Obligations.GeneratorPhasesTakeTheirEffect := by
  intro s ho
  have running := blockStep_of_running ho
  refine ⟨fun hp => ?_, fun hp => ?_, fun hp => ?_, fun hp ha => ?_⟩
  · exact step_of_blockStep (running.trans (generatorStep_constants hp))
  · exact step_of_blockStep (running.trans (generatorStep_expand hp))
  · exact step_of_blockStep (running.trans (generatorStep_zeroFill hp))
  · exact step_of_blockStep (running.trans ((generatorStep_render hp).trans (renderStep_of_ge ha)))

theorem step_of_iteration {s : State} {v : VariantTable} (ho : s.outcome = .running) (hp : s.phase = .render)
    (hv : s.vt = some v) (ha : s.a < Config.decodeSize) : step s = .next (presentAddress (afterIteration v s)) :=
  step_of_blockStep ((blockStep_of_running ho).trans ((generatorStep_render hp).trans (renderStep_of_lt hv ha)))

/-- Settles O31: the state after one iteration, read field by field; the fields of `a` are its decoding. -/
theorem walkStepWritesTheSelectedHalf : Obligations.WalkStepWritesTheSelectedHalf := by
  intro s v canonical ho hp ha hv
  have written : Memory.read (afterIteration v s).img s.a = walkByte v s.a := Memory.read_write_same canonical _ _
  refine ⟨_, step_of_iteration ho hp hv ha, ⟨decodeFields s.a, decodeAddress_of_lt ha, ?high, ?low, rfl⟩, ?others,
    rfl, rfl, rfl, rfl, rfl, rfl⟩
  case high =>
    intro hb
    rw [presentAddress_img, written, walkByte, hb, halfOf]
  case low =>
    intro hb
    rw [presentAddress_img, written, walkByte, hb, halfOf]
  case others => exact fun addr hother => Memory.read_write_other _ _ hother

/-- Settles O35: the host's answer is what `emit` draws. -/
theorem lastPhaseStepIsEmit : Obligations.LastPhaseStepIsEmit :=
  fun _ ho hp => ⟨_, _, step_of_blockStep ((blockStep_of_running ho).trans (generatorStep_emit hp))⟩

/-- Settles O46: a finished block executes what the port decodes to. -/
theorem stepRunsThePresentedInstruction : Obligations.StepRunsThePresentedInstruction := by
  intro s i ho hi
  have presented : blockStep s = exec i s := by
    rw [blockStep_of_done ho, exec_eq_romRead, decode_eq_ok.mp hi]
  rw [step, presented]
  cases exec i s <;> rfl

end Sys2Proof.Machine
end

section
/-! PROOFS. The invariant of the block: it holds at the start, every move keeps it, and in the last phase it fixes the
image (R25, R143, R144). -/

namespace Sys2Proof.Machine

/-- The image, the walk index, the trace, the outcome, the table and the phase of reset are enough for the invariant. -/
theorem blockInv_of_start {s : State} (himg : s.img = []) (ha : s.a = 0) (htrace : s.trace = [])
    (ho : s.outcome = .running) (hvt : s.vt = none) (hp : s.phase = .constants) : BlockInv s where
  canonical := himg ▸ Memory.wf_nil
  index_le := ha ▸ Nat.zero_le _
  written addr := by rw [himg, ha, if_neg (Nat.not_lt_zero addr)]; rfl
  traced := by rw [htrace, ha]; rfl
  table := by rw [hvt, if_pos (.inl hp)]
  not_begun _ _ := ha
  walk_over h := nomatch hp.symm.trans h
  outcome_last h := absurd ho h
  file_whole h := nomatch ho.symm.trans h

/-- Settles O25: the empty image reads zero at every address it has. -/
theorem runStartsFromTheStatedValues : Obligations.RunStartsFromTheStatedValues :=
  ⟨fun _ haddr => memRead_eq_ok.mpr ⟨haddr, rfl⟩, rfl, rfl, rfl, rfl, rfl⟩

/-- Settles O26. -/
theorem invariantHoldsAtReset : Obligations.InvariantHoldsAtReset :=
  blockInv_of_start rfl rfl rfl rfl rfl rfl

theorem blockInv_startAgain (s : State) : BlockInv (startAgain s) :=
  blockInv_of_start rfl rfl rfl rfl rfl rfl

/-- Settles O29. -/
theorem startingAgainResetsTheRunAndKeepsTheRest : Obligations.StartingAgainResetsTheRunAndKeepsTheRest :=
  fun s => ⟨blockInv_startAgain s, rfl, rfl, rfl, rfl, rfl, rfl, rfl, rfl, rfl, rfl⟩

/-! The table the walk reads is the closed form of R127, so the walk writes and traces what the invariant says. -/

theorem entry_expand_default (f : FlagState) (o : Opcode) (k : StepNo) :
    (expand jumpWord base).entry f o k = resolved f o k :=
  entry_expand jumpWord base f o k

theorem imageByte_of_lt {a : Nat} (ha : a < Config.decodeSize) :
    imageByte a = halfOf (decodeFields a).b (resolved (decodeFields a).f (decodeFields a).o (decodeFields a).s) :=
  if_pos ha

theorem walkByte_expand {a : Nat} (ha : a < Config.decodeSize) : walkByte (expand jumpWord base) a = imageByte a := by
  rw [walkByte, entry_expand_default, imageByte_of_lt ha]

theorem traceBelow_append_walkItems (a : Nat) :
    traceBelow a ++ walkItems (expand jumpWord base) a = traceBelow (a + 1) := by
  rw [walkItems, entry_expand_default, traceBelow_succ]

namespace BlockInv
variable {s : State}

theorem vt_of_past_expand (hs : BlockInv s) (h1 : s.phase ≠ .constants) (h2 : s.phase ≠ .expand) :
    s.vt = some (expand jumpWord base) := by
  rw [hs.table, if_neg (not_or_intro h1 h2)]

theorem vt_of_walk (hs : BlockInv s) (hp : s.phase = .render) : s.vt = some (expand jumpWord base) :=
  hs.vt_of_past_expand (hp ▸ nofun) (hp ▸ nofun)

/-- The port, the data output and the count of free values are no part of the invariant. -/
theorem presentAddress (hs : BlockInv s) : BlockInv (Machine.presentAddress s) where
  __ := hs

theorem setData (hs : BlockInv s) (d : Byte) : BlockInv (s.setData d) where
  __ := hs

theorem leaveConstants (hs : BlockInv s) (ho : s.outcome = .running) (hp : s.phase = .constants) :
    BlockInv (s.setPhase .expand) where
  __ := hs
  table := by rw [setPhase_vt, setPhase_phase, hs.table, hp]; rfl
  not_begun _ _ := hs.not_begun (hp ▸ nofun) (hp ▸ nofun)
  walk_over := nofun
  outcome_last h := absurd ho h

theorem expandTable (hs : BlockInv s) (ho : s.outcome = .running) (hp : s.phase = .expand) :
    BlockInv (expandStep s) where
  __ := hs
  table := rfl
  not_begun _ _ := hs.not_begun (hp ▸ nofun) (hp ▸ nofun)
  walk_over := nofun
  outcome_last h := absurd ho h

theorem zeroFill (hs : BlockInv s) (ho : s.outcome = .running) (hp : s.phase = .zeroFill) :
    BlockInv (beginRender s) where
  canonical := Memory.wf_nil
  index_le := Nat.zero_le _
  written addr := (if_neg (Nat.not_lt_zero addr)).symm
  traced := rfl
  table := hs.vt_of_past_expand (hp ▸ nofun) (hp ▸ nofun)
  not_begun h := absurd rfl h
  walk_over := nofun
  outcome_last h := absurd ho h
  file_whole h := nomatch ho.symm.trans h

/-- After an iteration the addresses passed are those before it and the walk index (R141). -/
theorem iterate (hs : BlockInv s) (ho : s.outcome = .running) (hp : s.phase = .render)
    (ha : s.a < Config.decodeSize) : BlockInv (afterIteration (expand jumpWord base) s) where
  canonical := Memory.wf_write hs.canonical _ (ha.trans (by decide))
  index_le := ha
  written addr := by
    change Memory.read (Memory.write s.img s.a _) addr = if addr < s.a + 1 then imageByte addr else 0
    by_cases current : addr = s.a
    · rw [current, Memory.read_write_same hs.canonical, walkByte_expand ha, if_pos (Nat.lt_succ_self _)]
    · rw [Memory.read_write_other _ _ current, hs.written]
      exact if_congr (by omega) rfl rfl
  traced := by
    change s.trace ++ _ = traceBelow (s.a + 1)
    rw [hs.traced, traceBelow_append_walkItems]
  table := hs.table
  not_begun h := absurd hp h
  walk_over h := nomatch hp.symm.trans h
  outcome_last h := absurd ho h
  file_whole h := nomatch ho.symm.trans h

theorem endWalk (hs : BlockInv s) (hp : s.phase = .render) (ha : Config.decodeSize ≤ s.a) :
    BlockInv (s.setPhase .emit) where
  __ := hs
  table := hs.vt_of_walk hp
  not_begun _ h := absurd rfl h
  walk_over _ := Nat.le_antisymm hs.index_le ha
  outcome_last _ := rfl

/-- A stored file holds the image, and a failed run promises nothing of it (R150, R160). -/
theorem emit (hs : BlockInv s) (hp : s.phase = .emit) (stored : Bool) (leftover : Option (List Byte)) :
    BlockInv (emitWith stored leftover s) := by
  cases stored with
  | true => exact { hs with outcome_last := fun _ => hp, file_whole := fun _ => rfl }
  | false => exact { hs with outcome_last := fun _ => hp, file_whole := nofun }

theorem of_move (hs : BlockInv s) {u : State} (h : Move s u) : BlockInv u := by
  cases h with
  | leaveConstants ho hp => exact hs.leaveConstants ho hp
  | expandTable ho hp => exact hs.expandTable ho hp
  | zeroFill ho hp => exact hs.zeroFill ho hp
  | iterate ho hp v hv ha =>
    obtain rfl := Option.some.inj (hv.symm.trans (hs.vt_of_walk hp))
    exact hs.iterate ho hp ha
  | endWalk ho hp ha => exact hs.endWalk hp ha
  | emit ho hp stored leftover => exact hs.emit hp stored leftover
  | read ho hp d => exact hs.setData d

theorem of_step (hs : BlockInv s) {t : State} (h : step s = .next t) : BlockInv t := by
  obtain ⟨u, hu, rfl⟩ := move_of_step h
  exact (hs.of_move hu).presentAddress

/-! The last phase: the walk is over, so every address below 1024 has its byte. -/

theorem read_of_emit (hs : BlockInv s) (hp : s.phase = .emit) (addr : Nat) :
    Memory.read s.img addr = imageByte addr := by
  rw [hs.written, hs.walk_over hp]
  by_cases haddr : addr < Config.decodeSize
  · rw [if_pos haddr]
  · rw [if_neg haddr, imageByte_upper (Nat.le_of_not_lt haddr)]

/-- The image of the last phase is the finished image, as a list: both are canonical and read the same (log 17). -/
theorem img_of_emit (hs : BlockInv s) (hp : s.phase = .emit) : s.img = finishedImage :=
  Memory.eq_of_read hs.canonical finishedImage_wf fun addr =>
    (hs.read_of_emit hp addr).trans (read_finishedImage addr).symm

theorem finished (hs : BlockInv s) (hp : s.phase = .emit) : Finished s :=
  ⟨hp, fun addr _ => hs.read_of_emit hp addr⟩

end BlockInv

/-- Settles O27: every move keeps the invariant, and the next address is no part of it. -/
theorem everyStepKeepsTheInvariant : Obligations.EveryStepKeepsTheInvariant :=
  fun _ _ hs h => hs.of_step h

/-- Settles O50: the walk is over in the last phase. -/
theorem lastPhaseImageIsFinished : Obligations.LastPhaseImageIsFinished :=
  fun _ hs hp => hs.finished hp

/-- Settles O40: both images are the finished image. -/
theorem finishedImagesAreIdentical : Obligations.FinishedImagesAreIdentical := by
  intro s t hs ht hps hpt
  rw [hs.img_of_emit hps, ht.img_of_emit hpt]
  exact ⟨rfl, rfl⟩

/-- Settles O37: the walk never reaches the upper half, and a write is one byte below 1024. -/
theorem upperHalfIsNeverWritten : Obligations.UpperHalfIsNeverWritten := by
  constructor
  · intro s hs addr hupper haddr
    exact memRead_eq_ok.mpr ⟨haddr, (hs.read_upper hupper).symm⟩
  · intro s addr v
    refine ⟨⟨fun ⟨_, ht⟩ => (memWrite_eq_ok.mp ht).left, fun haddr => ⟨_, memWrite_eq_ok.mpr ⟨haddr, rfl⟩⟩⟩,
      fun t ht => ?_⟩
    obtain ⟨_, rfl⟩ := memWrite_eq_ok.mp ht
    exact ⟨⟨_, rfl⟩, fun canonical => Memory.read_write_same canonical addr v,
      fun _ hother => Memory.read_write_other s.img v hother⟩

/-- The fields of an address as its bits and its quotient, as R144 has them (D5). -/
theorem imageByte_eq_of_bits {a : Nat} (ha : a < Config.decodeSize) :
    imageByte a =
      if a.testBit 7 = false then
        hi8 (resolved ⟨a.testBit 9, a.testBit 8⟩ (Fin.ofNat 16 (a / 8)) (Fin.ofNat 8 a))
      else lo8 (resolved ⟨a.testBit 9, a.testBit 8⟩ (Fin.ofNat 16 (a / 8)) (Fin.ofNat 8 a)) := by
  have opcode : (decodeFields a).o = Fin.ofNat 16 (a / 8) := Fin.ext (decodeFields_o a)
  have stepNo : (decodeFields a).s = Fin.ofNat 8 a := Fin.ext (decodeFields_s a)
  have byteSelect := decodeFields_b_number a
  rw [imageByte_of_lt ha, decodeFields_f_eq_testBit, opcode, stepNo]
  cases hb : (decodeFields a).b <;> cases hbit : a.testBit 7 <;> rw [hb, hbit] at byteSelect
  · rfl
  · cases byteSelect
  · cases byteSelect
  · rfl

/-- Settles O39: the image reads as the closed form, whose fields are the bits of the address. -/
theorem finishedImageHasTheClosedForm : Obligations.FinishedImageHasTheClosedForm := by
  intro s hs hp a ha
  refine memRead_eq_ok.mpr ⟨ha, ?_⟩
  rw [hs.read_of_emit hp]
  split
  · exact (imageByte_eq_of_bits ‹_›).symm
  · exact (imageByte_upper (Nat.le_of_not_lt ‹_›)).symm

end Sys2Proof.Machine
end

section
/-! PROOFS. Byte reads and instructions (R35, R39, R147): the equation of a read inside and outside its range, and what an
instruction changes. -/

namespace Sys2Proof.Machine

theorem memRead_of_lt {addr : Nat} (s : State) (ha : addr < Config.imageSize) :
    memRead addr s = .ok (Memory.read s.img addr) :=
  if_pos ha

theorem memRead_of_ge {addr : Nat} (s : State) (ha : Config.imageSize ≤ addr) :
    memRead addr s = .error (.noSuchAddress addr) :=
  if_neg (Nat.not_lt.mpr ha)

section Read
variable {s : State} {addr : Nat}

theorem romRead_of_finished (hp : s.phase = .emit) (ha : addr < Config.imageSize) :
    romRead addr s = .next (s.setData (Memory.read s.img addr)) :=
  romRead_eq_next.mpr ⟨hp, ha, rfl⟩

theorem romRead_of_ge (hp : s.phase = .emit) (ha : Config.imageSize ≤ addr) :
    romRead addr s = .refused (.noSuchAddress addr) := by
  rw [romRead, renderFinished, if_pos (decide_eq_true hp), memRead_of_ge s ha]

theorem romRead_of_unfinished (hp : s.phase ≠ .emit) : romRead addr s = .refused .imageNotFinished := by
  rw [romRead, renderFinished, if_neg (decide_eq_true_iff.not.mpr hp)]

end Read

/-- Settles O47: a byte read depends on the image alone, and in the last phase no move changes it. -/
theorem byteReadsAnswerAndStayTheSame : Obligations.ByteReadsAnswerAndStayTheSame := by
  refine fun s => ⟨fun a => memRead_of_lt s, fun a => memRead_of_ge s, fun t hp h a => ?_⟩
  obtain ⟨u, hu, rfl⟩ := move_of_step h
  obtain ⟨himg, _⟩ := hu.frame_of_emit hp
  rw [memRead, memRead, presentAddress_img, himg]

/-- Settles O48: an instruction is the ROM read at its address. -/
theorem everyInstructionIsOneByteRead : Obligations.EveryInstructionIsOneByteRead :=
  fun i s => ⟨fun hp => exec_eq_next.mpr ⟨hp, rfl⟩, fun hp => (exec_eq_romRead i s).trans (romRead_of_unfinished hp)⟩

/-- Settles O49: the next state is the old one with another data output. -/
theorem instructionsChangeTheDataOutputOnly : Obligations.InstructionsChangeTheDataOutputOnly := by
  intro i s t h
  obtain ⟨_, rfl⟩ := exec_eq_next.mp h
  exact ⟨fun _ => rfl, rfl, rfl, rfl, rfl, rfl, rfl, rfl, rfl, rfl⟩

end Sys2Proof.Machine
end

section
/-! PROOFS. What a run leaves: the trace, counted address by address, and the file (R148, R150, R151). -/

namespace Sys2Proof.Machine

/-- Settles O32: the two thresholds of R148 order the steps in three ranges. -/
theorem traceOfAnAddress : Obligations.TraceOfAnAddress := by
  intro a x w
  refine ⟨fun hs => ?_, fun hs => ?_, fun hs => ?_⟩
  · rw [traceItemsOf, if_pos (show x.s.val < 6 by omega), if_neg (by omega), List.append_nil]
  · rw [traceItemsOf, if_pos (show x.s.val < 6 by omega), if_pos hs, List.singleton_append]
  · rw [traceItemsOf, if_neg (show ¬ x.s.val < 6 by omega), if_neg (by omega), List.append_nil]

theorem countP_record_traceItemsOf (a : Nat) (x : RomFields) (w : CWord) :
    (traceItemsOf a x w).countP (fun i => decide (i ≠ .blank)) = if x.s.val < 6 then 1 else 0 := by
  obtain ⟨before, last, after⟩ := traceOfAnAddress a x w
  rcases Nat.lt_trichotomy x.s.val 5 with h | h | h
  · rw [before h, if_pos (by omega)]; rfl
  · rw [last h, if_pos (by omega)]; rfl
  · rw [after h, if_neg (by omega)]; rfl

theorem countP_blank_traceItemsOf (a : Nat) (x : RomFields) (w : CWord) :
    (traceItemsOf a x w).countP (fun i => decide (i = .blank)) = if x.s.val = 5 then 1 else 0 := by
  obtain ⟨before, last, after⟩ := traceOfAnAddress a x w
  rcases Nat.lt_trichotomy x.s.val 5 with h | h | h
  · rw [before h, if_neg (by omega)]; rfl
  · rw [last h, if_pos h]; rfl
  · rw [after h, if_neg (by omega)]; rfl

/-- The walk traces a record for each address whose step is below 6. -/
theorem countP_record_traceBelow (n : Nat) :
    (traceBelow n).countP (fun i => decide (i ≠ .blank)) = n.count fun a => a % 8 < 6 := by
  induction n with
  | zero => rfl
  | succ n ih =>
    rw [traceBelow_succ, List.countP_append, ih, countP_record_traceItemsOf, decodeFields_s, Nat.count_succ]
    rfl

/-- The walk traces a blank marker for each address whose step is 5. -/
theorem countP_blank_traceBelow (n : Nat) :
    (traceBelow n).countP (fun i => decide (i = .blank)) = n.count fun a => a % 8 = 5 := by
  induction n with
  | zero => rfl
  | succ n ih =>
    rw [traceBelow_succ, List.countP_append, ih, countP_blank_traceItemsOf, decodeFields_s, Nat.count_succ]
    rfl

/-- Eight addresses in a row differ in the step alone: six records, and one blank marker. -/
theorem count_traced_steps (n : Nat) :
    ((8 * n).count fun a => a % 8 < 6) = 6 * n ∧ ((8 * n).count fun a => a % 8 = 5) = n := by
  induction n with
  | zero => exact ⟨rfl, rfl⟩
  | succ n ih =>
    obtain ⟨records, blanks⟩ := ih
    rw [Nat.mul_succ, Nat.count_add, Nat.count_add, records, blanks]
    simp only [Nat.mul_add_mod]
    exact ⟨rfl, rfl⟩

/-- Settles O33: 1024 addresses are 128 times eight. -/
theorem finishedTraceHas768RecordsAnd128Blanks : Obligations.FinishedTraceHas768RecordsAnd128Blanks := by
  intro s hs hp
  obtain ⟨records, blanks⟩ := count_traced_steps 128
  rw [hs.traced, hs.walk_over hp, ← List.countP_eq_length_filter, ← List.countP_eq_length_filter,
    countP_record_traceBelow, countP_blank_traceBelow]
  exact ⟨records, blanks⟩

/-- Settles O34: the file is the list of the image's bytes, and an answer of the host changes OUTCOME and the file alone. -/
theorem emitHandsOverTheImage : Obligations.EmitHandsOverTheImage := by
  intro stored leftover s
  cases stored with
  | true =>
    refine ⟨fun _ => ⟨rfl, imageBytes s.img, rfl, length_imageBytes s.img, fun i hi => ?_⟩, nofun,
      rfl, rfl, rfl, rfl, rfl, rfl, rfl, rfl⟩
    have inside : i < (imageBytes s.img).length := (length_imageBytes s.img).symm ▸ hi
    rw [List.getElem?_eq_getElem inside, getElem_imageBytes]
  | false => exact ⟨nofun, fun _ => ⟨rfl, rfl⟩, rfl, rfl, rfl, rfl, rfl, rfl, rfl, rfl⟩

end Sys2Proof.Machine
end

section
/-! PROOFS. The trace is never read (R152): a move answers the same, but for the trace, whatever the trace is. -/

namespace Sys2Proof.Machine

/-- An answer without its trace. -/
def eraseTrace : StepResult → StepResult
  | .next t => .next (t.setTrace [])
  | .fault r => .fault r
  | .refused r => .refused r

section Erase
variable (s : State) (τ : List TraceItem)

theorem eraseTrace_romRead (addr : Nat) :
    eraseTrace (romRead addr (s.setTrace τ)) = eraseTrace (romRead addr s) := by
  by_cases hp : s.phase = .emit
  · rcases Nat.lt_or_ge addr Config.imageSize with ha | ha
    · rw [romRead_of_finished hp ha, romRead_of_finished (s := s.setTrace τ) hp ha]; rfl
    · rw [romRead_of_ge hp ha, romRead_of_ge (s := s.setTrace τ) hp ha]
  · rw [romRead_of_unfinished hp, romRead_of_unfinished (s := s.setTrace τ) hp]

theorem emitWith_setTrace (stored : Bool) (leftover : Option (List Byte)) :
    emitWith stored leftover (s.setTrace τ) = (emitWith stored leftover s).setTrace τ := by
  cases stored <;> rfl

theorem eraseTrace_emit : eraseTrace (.next (emit (s.setTrace τ))) = eraseTrace (.next (emit s)) := by
  have commutes : emit (s.setTrace τ) = (emit s).setTrace τ := emitWith_setTrace s τ _ _
  rw [commutes]
  rfl

theorem eraseTrace_renderStep : eraseTrace (renderStep (s.setTrace τ)) = eraseTrace (renderStep s) := by
  rcases Nat.lt_or_ge s.a Config.decodeSize with ha | ha
  · cases hv : s.vt with
    | some v => rw [renderStep_of_lt hv ha, renderStep_of_lt (s := s.setTrace τ) hv ha]; rfl
    | none => simp only [renderStep, setTrace_a, setTrace_vt, ha, hv, if_true]
  · rw [renderStep_of_ge ha, renderStep_of_ge (s := s.setTrace τ) ha]; rfl

theorem eraseTrace_generatorStep : eraseTrace (generatorStep (s.setTrace τ)) = eraseTrace (generatorStep s) := by
  cases hp : s.phase with
  | constants => rw [generatorStep_constants hp, generatorStep_constants (s := s.setTrace τ) hp]; rfl
  | expand => rw [generatorStep_expand hp, generatorStep_expand (s := s.setTrace τ) hp]; rfl
  | zeroFill => rw [generatorStep_zeroFill hp, generatorStep_zeroFill (s := s.setTrace τ) hp]; rfl
  | render =>
    rw [generatorStep_render hp, generatorStep_render (s := s.setTrace τ) hp, eraseTrace_renderStep]
  | emit => rw [generatorStep_emit hp, generatorStep_emit (s := s.setTrace τ) hp, eraseTrace_emit]

theorem eraseTrace_blockStep : eraseTrace (blockStep (s.setTrace τ)) = eraseTrace (blockStep s) := by
  cases ho : s.outcome with
  | running => rw [blockStep_of_running ho, blockStep_of_running (s := s.setTrace τ) ho, eraseTrace_generatorStep]
  | done => rw [blockStep_of_done ho, blockStep_of_done (s := s.setTrace τ) ho, setTrace_port, eraseTrace_romRead]
  | fault e => cases e; rw [blockStep_of_failed ho, blockStep_of_failed (s := s.setTrace τ) ho]

end Erase

theorem eraseTrace_eq_next {r : StepResult} {u : State} (h : eraseTrace r = eraseTrace (.next u)) :
    ∃ u', r = .next u' ∧ AgreeButTrace u u' := by
  cases r with
  | next u' => exact ⟨u', rfl, (Host.Outcome.next.inj h).symm⟩
  | fault | refused => cases h

theorem AgreeButTrace.presentAddress {s t : State} (h : AgreeButTrace s t) :
    AgreeButTrace (Machine.presentAddress s) (Machine.presentAddress t) :=
  congrArg Machine.presentAddress h

/-- Settles O42: no part of a move reads the trace, so both states, without it, move alike. -/
theorem traceNeverInfluencesTheRest : Obligations.TraceNeverInfluencesTheRest := by
  intro s t s' agree h
  obtain ⟨u, hu, rfl⟩ := step_eq_next.mp h
  have alike : eraseTrace (blockStep t) = eraseTrace (.next u) := by
    rw [← hu, ← eraseTrace_blockStep s [], ← eraseTrace_blockStep t [], agree]
  obtain ⟨u', hu', agree'⟩ := eraseTrace_eq_next alike
  exact ⟨_, step_of_blockStep hu', agree'.presentAddress⟩

end Sys2Proof.Machine
end

section
/-! PROOFS. The end of a run (R24, R25, R195): progress in every state that has not failed, the steps left, and the one
exception. -/

namespace Sys2Proof.Machine

/-- The port has 11 bits, so it holds an address of the image (D6). -/
theorem blockStep_of_done_emit {s : State} (ho : s.outcome = .done) (hp : s.phase = .emit) :
    blockStep s = .next (s.setData (Memory.read s.img s.port.toNat)) :=
  (blockStep_of_done ho).trans (romRead_of_finished hp s.port.isLt)

/-- A running generator has a next move in every phase: in the walk the table is there. -/
theorem BlockInv.exists_move_of_running {s : State} (hs : BlockInv s) (ho : s.outcome = .running) :
    ∃ u, blockStep s = .next u := by
  rw [blockStep_of_running ho]
  cases hp : s.phase with
  | constants => exact ⟨_, generatorStep_constants hp⟩
  | expand => exact ⟨_, generatorStep_expand hp⟩
  | zeroFill => exact ⟨_, generatorStep_zeroFill hp⟩
  | render =>
    rw [generatorStep_render hp]
    rcases Nat.lt_or_ge s.a Config.decodeSize with ha | ha
    · exact ⟨_, renderStep_of_lt (hs.vt_of_walk hp) ha⟩
    · exact ⟨_, renderStep_of_ge ha⟩
  | emit => exact ⟨_, generatorStep_emit hp⟩

/-- Only a failed run has no next state (R161, R166). -/
theorem BlockInv.exists_step {s : State} (hs : BlockInv s) (ho : s.outcome ≠ .fault .ioFailure) :
    ∃ t, step s = .next t := by
  cases hout : s.outcome with
  | running =>
    obtain ⟨u, hu⟩ := hs.exists_move_of_running hout
    exact ⟨_, step_of_blockStep hu⟩
  | done => exact ⟨_, step_of_blockStep (blockStep_of_done_emit hout (hs.outcome_last (hout ▸ nofun)))⟩
  | fault e => cases e; exact absurd hout ho

theorem step_of_failed {s : State} (ho : s.outcome = .fault .ioFailure) : step s = .fault .ioFailure :=
  step_eq_fault.mpr (blockStep_of_failed ho)

/-- Settles O45: a state either has a next state, or its run has failed and the step is the fault. -/
theorem nothingElseFaults : Obligations.NothingElseFaults := by
  intro s hs
  refine ⟨hs.exists_step, fun r hfault => (blockStep_fault (step_eq_fault.mp hfault)).left, fun r hrefused => ?_⟩
  by_cases ho : s.outcome = .fault .ioFailure
  · cases (step_of_failed ho).symm.trans hrefused
  · obtain ⟨t, ht⟩ := hs.exists_step ho
    cases ht.symm.trans hrefused

/-- How many steps a running generator has before it (log 2): three phases, the walk, its end, and emit. -/
def stepsLeft (s : State) : Nat :=
  match s.phase with
  | .constants => 1029
  | .expand => 1028
  | .zeroFill => 1027
  | .render => 1024 - s.a + 2
  | .emit => 1

theorem stepsLeft_le (s : State) : stepsLeft s ≤ 1029 := by
  unfold stepsLeft
  split <;> omega

theorem stepsLeft_pos (s : State) : 0 < stepsLeft s := by
  unfold stepsLeft
  split <;> omega

/-- Every move of a running generator ends the run or leaves fewer steps. -/
theorem Move.stepsLeft_lt {s u : State} (h : Move s u) (ho : s.outcome = .running) (running : u.outcome = .running) :
    stepsLeft u < stepsLeft s := by
  cases h with
  | leaveConstants _ hp | expandTable _ hp => simp [stepsLeft, hp, expandStep]
  | zeroFill _ hp => simp [stepsLeft, hp, beginRender]
  | iterate _ hp v _ ha =>
    simp only [stepsLeft, afterIteration, setA_phase, setTrace_phase, setImg_phase, setA_a, hp]
    have passed : s.a < 1024 := ha
    omega
  | endWalk _ hp => simp [stepsLeft, hp]
  | emit _ _ stored => cases stored <;> cases running
  | read hdone => cases ho.symm.trans hdone

theorem run_succ_of_next (M : Host.Core) {s t : M.State} (h : M.step s = .next t) (n : Nat) :
    M.run (n + 1) s = M.run n t := by
  rw [Host.Core.run, h]

/-- A running generator ends within the steps it has left. -/
theorem BlockInv.run_ends {s : State} (hs : BlockInv s) (ho : s.outcome = .running) {n : Nat} (hn : stepsLeft s ≤ n) :
    ∃ k t, k ≤ n ∧ Host.Core.run core k s = .next t ∧ t.outcome ≠ .running ∧ BlockInv t := by
  induction n generalizing s with
  | zero => exact absurd (stepsLeft_pos s) (Nat.not_lt.mpr hn)
  | succ n ih =>
    obtain ⟨u, hu⟩ := hs.exists_move_of_running ho
    have next := step_of_blockStep hu
    have hinv := hs.of_step next
    by_cases running : u.outcome = .running
    · have fewer : stepsLeft u < stepsLeft s := (move_of_blockStep hu).stepsLeft_lt ho running
      obtain ⟨k, t, hk, hrun, hended⟩ := ih hinv running (Nat.le_of_lt_succ (fewer.trans_le hn))
      exact ⟨k + 1, t, Nat.succ_le_succ hk, (run_succ_of_next core next k).trans hrun, hended⟩
    · exact ⟨1, _, Nat.succ_le_succ (Nat.zero_le n), run_succ_of_next core next 0, running, hinv⟩

/-- Settles O41: no state has more than 1029 steps left, and a run ends in the last phase. -/
theorem everyRunEndsWithTheImageFinished : Obligations.EveryRunEndsWithTheImageFinished := by
  intro s hs ho
  obtain ⟨n, t, hn, hrun, hended, hinv⟩ := hs.run_ends ho (stepsLeft_le s)
  exact ⟨n, t, hn, hrun, hended, hinv, hinv.outcome_last hended⟩

/-- Settles O43: only emit changes OUTCOME, and emit leaves the image. -/
theorem onlyEmitRaisesIOFailure : Obligations.OnlyEmitRaisesIOFailure := by
  intro s hs
  refine ⟨fun t h not_emit failed => ?_, fun _ hp leftover => ⟨rfl, fun a _ => ?_⟩⟩
  · obtain ⟨u, hu, rfl⟩ := move_of_step h
    obtain same | ⟨ho, hp, _⟩ := hu.outcome_cases
    · cases (step_of_failed (same.symm.trans failed)).symm.trans h
    · exact not_emit ⟨ho, hp⟩
  · rw [emitWith_failed, raiseException_img, setFile_img, hs.read_of_emit hp]

/-- Settles O44: a new start is a run of its own, and its last phase has the finished image as this one has. -/
theorem noReturnFromTheFailure : Obligations.NoReturnFromTheFailure := by
  intro s hs ho
  obtain ⟨n, t, _, hrun, hended, hinv, hp⟩ := everyRunEndsWithTheImageFinished _ (blockInv_startAgain s) rfl
  refine ⟨step_of_failed ho, n, t, hrun, hended, ?_⟩
  rw [hinv.img_of_emit hp, hs.img_of_emit (hs.outcome_last (ho ▸ nofun))]

end Sys2Proof.Machine
end

section
/-! PROOFS. The ROM view (R147, R149, R156): what a finished image answers at the address of any fields, and so what each
instruction reads. -/

namespace Sys2Proof.Machine

theorem imageByte_encodeFields (x : RomFields) : imageByte (encodeFields x) = halfOf x.b (resolved x.f x.o x.s) := by
  rw [imageByte_of_lt (encodeFields_lt x), decodeFields_encodeFields]

/-- The microprogram an opcode reads as in a flag state: a conditional jump that is taken reads as JMP (R128, R129). -/
def resolvedProgram (f : FlagState) (o : Opcode) : Microprogram :=
  if (o = 7 ∧ f.carry = true) ∨ (o = 8 ∧ f.zero = true) then microJmp else base.row o

theorem resolvedProgram_of_ne (f : FlagState) {o : Opcode} (h7 : o ≠ 7) (h8 : o ≠ 8) :
    resolvedProgram f o = base.row o :=
  if_neg (by simp [h7, h8])

/-- JMP has the jump word at step 2, and elsewhere the words of the conditional jumps' base microprogram. -/
theorem microJmp_word_of_ne_two {k : StepNo} (hk : k ≠ 2) : microJmp.word k = template.word k := by
  revert k
  decide

theorem resolved_eq_word (f : FlagState) (o : Opcode) (k : StepNo) :
    resolved f o k = (resolvedProgram f o).word k := by
  by_cases taken : (o = 7 ∧ f.carry = true) ∨ (o = 8 ∧ f.zero = true)
  · rw [resolvedProgram, if_pos taken]
    by_cases hk : k = 2
    · subst hk
      exact if_pos (patched_iff.mpr ⟨rfl, taken⟩)
    · rw [microJmp_word_of_ne_two hk, resolved_eq_base f fun h => hk h.right]
      obtain ⟨rfl, _⟩ | ⟨rfl, _⟩ := taken <;> rfl
  · rw [resolvedProgram, if_neg taken]
    exact resolvedWith_of_not_patched _ _ fun hp => taken (patched_iff.mp hp).right

namespace Finished
variable {s : State}

theorem setData (hs : Finished s) (d : Byte) : Finished (s.setData d) := hs

theorem presentAddress (hs : Finished s) : Finished (Machine.presentAddress s) := hs

theorem read_encodeFields (hs : Finished s) (x : RomFields) :
    Memory.read s.img (encodeFields x) = halfOf x.b (resolved x.f x.o x.s) := by
  obtain ⟨_, closedForm⟩ := hs
  rw [closedForm _ ((encodeFields_lt x).trans (by decide)), imageByte_encodeFields]

/-- An instruction reads its half of the microprogram its opcode has in its flag state. -/
theorem exec_eq_word (hs : Finished s) (i : Instr) {m : Microprogram}
    (hm : resolvedProgram (fieldsOfInstr i).f (fieldsOfInstr i).o = m) :
    exec i s = .next (s.setData (halfOf (fieldsOfInstr i).b (m.word (fieldsOfInstr i).s))) := by
  obtain ⟨hp, _⟩ := id hs
  rw [exec_eq_next.mpr ⟨hp, rfl⟩, encode, hs.read_encodeFields, resolved_eq_word, hm]

/-- All but the conditional jumps read their base microprogram, in every flag state. -/
theorem exec_eq_base_word (hs : Finished s) {i : Instr} {f : FlagState} {b : ByteSelect} {o : Opcode} {k : StepNo}
    {m : Microprogram} (hi : fieldsOfInstr i = ⟨f, b, o, k⟩) (hm : o ≠ 7 ∧ o ≠ 8 ∧ base.row o = m) :
    exec i s = .next (s.setData (halfOf b (m.word k))) := by
  obtain ⟨h7, h8, rfl⟩ := hm
  rw [hs.exec_eq_word i rfl, hi, resolvedProgram_of_ne f h7 h8]

/-- The two halves of an entry lie where the lookup reads them (R149). -/
theorem controlWordAt_eq (hs : Finished s) (f : FlagState) (o : Opcode) (k : StepNo) :
    controlWordAt s.img f o k = resolved f o k := by
  rw [controlWordAt, hs.read_encodeFields, hs.read_encodeFields]
  exact joinHalves_hi8_lo8 _

end Finished

/-- Settles O51: each of the six opcodes has the template in the base table, and none is a conditional jump. -/
theorem fetchOnlyOpcodesReadTheTemplate : Obligations.FetchOnlyOpcodesReadTheTemplate := by
  intro s hs f b k i hi
  simp only [List.mem_cons, List.not_mem_nil, or_false] at hi
  rcases hi with rfl | rfl | rfl | rfl | rfl | rfl <;>
    exact hs.exec_eq_base_word rfl (by decide)

/-- Settles O52: none of the three is a conditional jump, and their rows of the base table are these. -/
theorem loadsAndStoresReadTheirMicroprograms : Obligations.LoadsAndStoresReadTheirMicroprograms :=
  fun _ hs _ _ _ => ⟨hs.exec_eq_base_word rfl (by decide), hs.exec_eq_base_word rfl (by decide),
    hs.exec_eq_base_word rfl (by decide)⟩

/-- Settles O53: the control words looked up are the table's, which latch the flags at step 4. -/
theorem arithmeticOpcodesReadTheirMicroprograms : Obligations.ArithmeticOpcodesReadTheirMicroprograms := by
  intro s hs f b k
  refine ⟨hs.exec_eq_base_word rfl (by decide), hs.exec_eq_base_word rfl (by decide), ?_, ?_⟩
  · rw [hs.controlWordAt_eq, latchesFlags_resolved_iff]
    simp
  · rw [hs.controlWordAt_eq, latchesFlags_resolved_iff]
    simp

/-- Settles O54: a taken jump reads as JMP, and one not taken as its base microprogram, which is the template. -/
theorem jumpsReadTheirResolvedMicroprograms : Obligations.JumpsReadTheirResolvedMicroprograms := by
  intro s hs f flag b k
  have taken : microJmp = ⟨0x4004, 0x1408, 0x0802, 0x0000, 0x0000, 0x0000, 0x0000, 0x0000⟩ := by decide
  have idle : template = ⟨0x4004, 0x1408, 0x0000, 0x0000, 0x0000, 0x0000, 0x0000, 0x0000⟩ := by decide
  exact ⟨hs.exec_eq_base_word rfl (by decide),
    hs.exec_eq_word (.jcTaken flag b k) ((if_pos (.inl ⟨rfl, rfl⟩)).trans taken),
    hs.exec_eq_word (.jcNotTaken flag b k) ((if_neg (by simp [fieldsOfInstr])).trans idle),
    hs.exec_eq_word (.jzTaken flag b k) ((if_pos (.inr ⟨rfl, rfl⟩)).trans taken),
    hs.exec_eq_word (.jzNotTaken flag b k) ((if_neg (by simp [fieldsOfInstr])).trans idle)⟩

/-- Settles O55: a read of HLT leaves the image and the phase, as every read does. -/
theorem outputAndHaltReadTheirMicroprograms : Obligations.OutputAndHaltReadTheirMicroprograms := by
  intro s hs f b k
  refine ⟨hs.exec_eq_base_word rfl (by decide), hs.exec_eq_base_word rfl (by decide), ?_⟩
  intro t h
  obtain ⟨_, rfl⟩ := exec_eq_next.mp h
  exact hs.setData _

/-- Settles O56: the port's 11 bits are an address of the image, and a read leaves the image and the phase. -/
theorem portAnswersEveryAddress : Obligations.PortAnswersEveryAddress := by
  intro s hs ho
  obtain ⟨hp, closedForm⟩ := id hs
  have answered : step s = .next (presentAddress (s.setData (imageByte s.port.toNat))) := by
    rw [← closedForm _ s.port.isLt]
    exact step_of_blockStep (blockStep_of_done_emit ho hp)
  exact ⟨_, answered, rfl, (hs.setData _).presentAddress, ho, imageByte_upper⟩

/-- Settles O57: the byte-select alone tells the two addresses apart. -/
theorem controlWordIsTwoReads128Apart : Obligations.ControlWordIsTwoReads128Apart := by
  intro s hs f o k
  refine ⟨(hs.controlWordAt_eq f o k).trans (entry_expand_default f o k).symm, ?_⟩
  rw [encodeFields_eq_weightedSum, encodeFields_eq_weightedSum]
  simp only [ByteSelect.number]
  omega

/-- Settles O58: away from step 2 the flag state does not matter, so every step may take that of step 2. -/
theorem instructionReadsDependOnFlagsAtStepTwoOnly : Obligations.InstructionReadsDependOnFlagsAtStepTwoOnly := by
  intro s hs fs o
  refine Microprogram.eq_of_word fun k => ?_
  have flags_of_step_two : resolved (fs k) o k = resolved (fs 2) o k := by
    by_cases hk : k = 2
    · rw [hk]
    · rw [resolved_eq_base _ fun h => hk h.right, resolved_eq_base _ fun h => hk h.right]
  rw [readInstruction, Microprogram.word_tabulate, hs.controlWordAt_eq, flags_of_step_two]
  exact resolved_eq_word (fs 2) o k

end Sys2Proof.Machine
end

section
/-! PROOFS. The finished image as bytes (R146, R155): the four flag blocks of 256 bytes, and its figures. -/

namespace Sys2Proof.Machine

/-- The flag blocks hold the same fields at the same offset, but for the flag state. -/
theorem encodeFields_of_block (f : FlagState) {k : Nat} (hk : k < 256) :
    encodeFields ⟨f, (decodeFields k).b, (decodeFields k).o, (decodeFields k).s⟩ = 256 * f.number + k := by
  have inBlock : encodeFields (decodeFields k) = k := encodeFields_decodeFields (hk.trans (by decide))
  rw [encodeFields_eq_weightedSum] at inBlock ⊢
  dsimp only
  omega

theorem imageByte_of_block (f : FlagState) {k : Nat} (hk : k < 256) :
    imageByte (256 * f.number + k) =
      halfOf (decodeFields k).b (resolved f (decodeFields k).o (decodeFields k).s) := by
  rw [← encodeFields_of_block f hk, imageByte_encodeFields]

/-- Step 2 of JC and JZ lies at four offsets of a block, the high bytes and the low. -/
theorem offset_of_conditional_jump {k : Nat} (hk : k < 256)
    (h : ((decodeFields k).o = 7 ∨ (decodeFields k).o = 8) ∧ (decodeFields k).s = 2) :
    k = 0x3A ∨ k = 0xBA ∨ k = 0x42 ∨ k = 0xC2 := by
  obtain ⟨ho, hs⟩ := h
  have offset := encodeFields_of_block ⟨false, false⟩ hk
  rw [encodeFields_eq_weightedSum] at offset
  dsimp only at offset
  have byteSelect := (decodeFields k).b.number_lt
  have opcode := ho.imp (congrArg Fin.val) (congrArg Fin.val)
  have stepNo := congrArg Fin.val hs
  dsimp at opcode stepNo
  omega

/-- Settles O59: at any other offset the entry is the base table's in every block. -/
theorem flagBlocksDifferAtFourOffsetsOnly : Obligations.FlagBlocksDifferAtFourOffsetsOnly := by
  intro f k hk
  refine ⟨fun h1 h2 h3 h4 => ?_, ?_, ?_, ?_, ?_⟩
  · have unpatched : ¬ (((decodeFields k).o = 7 ∨ (decodeFields k).o = 8) ∧ (decodeFields k).s = 2) := fun h => by
      have := offset_of_conditional_jump hk h
      omega
    have first : imageByte k = imageByte (256 * FlagState.number ⟨false, false⟩ + k) := by simp [FlagState.number]
    rw [first, imageByte_of_block _ hk, imageByte_of_block _ hk, resolved_eq_base _ unpatched,
      resolved_eq_base _ unpatched]
  all_goals
    rintro rfl
    rw [imageByte_of_block f hk]
    rcases f with ⟨_ | _, _ | _⟩ <;> decide

/-- The image lists nothing of the upper half, so it is made of the decode domain alone. -/
theorem finishedImage_eq_lower :
    finishedImage = (List.range Config.decodeSize).filterMap fun a =>
      if imageByte a = unlistedByte then none else some (a, imageByte a) := by
  have upper_zero : ((List.range 1024).map (1024 + ·)).filterMap
      (fun a => if imageByte a = unlistedByte then none else some (a, imageByte a)) = [] := by
    rw [List.filterMap_eq_nil_iff]
    intro a ha
    obtain ⟨j, _, rfl⟩ := List.mem_map.mp ha
    exact if_pos (imageByte_upper (Nat.le_add_right 1024 j))
  rw [finishedImage, show Config.imageSize = 1024 + 1024 from rfl, List.range_add, List.filterMap_append, upper_zero,
    List.append_nil]

theorem finishedImage_figures :
    finishedImage.length = 344 ∧ (finishedImage.map fun c => c.2.toNat).sum = 9888 := by
  rw [finishedImage_eq_lower]
  decide +kernel

theorem mem_finishedImage {c : Host.Cell} (hc : c ∈ finishedImage) : c.1 < Config.decodeSize ∧ c.2 ≠ unlistedByte := by
  rw [finishedImage_eq_lower] at hc
  obtain ⟨a, ha, hlisted⟩ := List.mem_filterMap.mp hc
  by_cases hzero : imageByte a = unlistedByte
  · rw [if_pos hzero] at hlisted
    cases hlisted
  · rw [if_neg hzero] at hlisted
    obtain rfl := Option.some.inj hlisted
    exact ⟨List.mem_range.mp ha, hzero⟩

/-- Settles O60: the image of the last phase is the finished image, as a list. -/
theorem finishedImageFigures : Obligations.FinishedImageFigures := by
  intro s hs hp
  rw [hs.img_of_emit hp]
  obtain ⟨listed, total⟩ := finishedImage_figures
  exact ⟨listed, total, fun _ => mem_finishedImage⟩

end Sys2Proof.Machine
end
